-- ==== Sys2Proof/Word.lean ====
section
/-! DEFINITION. The words of the block and its small closed sets of values (00_scope.md R7, R10; 10_state.md R21 to R31). -/

namespace Sys2Proof

/-- A configuration word or one byte of a result frame, `WORD_BITS` = 8 (R7); bit 0 is the least significant (R10). -/
abbrev Byte := BitVec 8

/-- A device address on the bus, 7 bits (R21, R40). -/
abbrev Address := BitVec 7

/-- A mux channel code, the 2 bits of the `MUX` field (R64). -/
abbrev MuxCode := BitVec 2

/-- The channel count of a converter variant: 1, 2 or 4 (R9, R22). -/
inductive ChannelCount where
  | one
  | two
  | four
  deriving DecidableEq, Repr

/-- A PGA gain: 1, 2, 4 or 8 (R27, R61). -/
inductive Gain where
  | x1
  | x2
  | x4
  | x8
  deriving DecidableEq, Repr

/-- A row of the rate table (R62, R100): 240, 60, 15 or 3.75 samples per second. The row 3.75 is in the
register map only: it is not settable, and no result is decoded or scaled at it (D5). -/
inductive Rate where
  | sps240
  | sps60
  | sps15
  | sps3p75
  deriving DecidableEq, Repr

/-- The phase of a channel context (R31), a ghost field: no outcome depends on it. -/
inductive Phase where
  | idle
  | awaiting
  deriving DecidableEq, Repr

end Sys2Proof
end

