-- ==== Sys2Proof/Config.lean ====
section
/-! DEFINITION. The parameters of the block (00_scope.md R7), the answers of the oracle (20_memory.md R44) and
the free values. -/

namespace Sys2Proof

/-- What the transport answers to a `BusWrite`: `Ok` or `TransportError` (R12, R44). -/
inductive WriteAnswer where
  | ok
  | transportError
  deriving DecidableEq, Repr, Inhabited

/-- What the transport answers to a `BusRead`: the bytes it delivers, in the order it delivers them, or
`TransportError` (R12, R44). Three bytes make a result frame; any other count is read as `TransportError`
(R44, D31), which `ReadAnswer.frame?` of Machine/Ops.lean decides. -/
inductive ReadAnswer where
  | bytes (bs : List Byte)
  | transportError
  deriving DecidableEq, Repr, Inhabited

/-- How the scaler's value leaves the block (`VOLT_REPR`, R7, R192): the exact rational, or a rounded number
of a realisation (binary64, or fixed point with `VOLT_FRAC_BITS` fraction bits). -/
inductive VoltRepr where
  | exact
  | binary64
  | fixedPoint (fracBits : Nat)
  deriving DecidableEq, Repr

/-- The arguments of one channel context's construction (R241), as the caller gives them. -/
structure ContextArgs where
  index : Int
  gain : Int
  rate : Rat
  continuous : Bool
  deriving DecidableEq, Repr

/-- The parameters the block is built from (R7, R240), as the platform gives them; `CH_CTX_COUNT` is the
number of `contexts`. -/
structure BuildParams where
  channelCount : Int
  devAddress : Int
  contexts : List ContextArgs
  deriving DecidableEq, Repr

namespace Config

/-- `READ_LENGTH` (R7): the bytes moved by one result read. -/
def readLength : Nat := 3

/-- `VREF` (R7, R193): 2.048 V exactly. -/
def vref : Rat := 256 / 125

/-- `VOLT_REPR` = `Exact` in this spec (R7, R192). -/
def voltRepr : VoltRepr := .exact

/-- `VoltRound` (R192), open: the one rounding of a realisation whose representation is not exact. A free
function of the exact value alone (notes/assumptions/5.md). -/
opaque voltRound : VoltRepr → Rat → Rat

/-- The oracle's free answer to the `BusWrite` that is transaction number `n` (R44): a free value
(notes/assumptions/3.md). -/
opaque freeWriteAnswer : Nat → WriteAnswer

/-- The oracle's free answer to the `BusRead` that is transaction number `n` (R44): a free value
(notes/assumptions/3.md). -/
opaque freeReadAnswer : Nat → ReadAnswer

/-- The build of this model's reset state. DESIGN CHOICE, unsafe (notes/assumptions/1.md): the parameters are
open (R7, U9), and these are those of the spec's own start state S0 (95_test_vectors.md L3). -/
def build : BuildParams where
  channelCount := 4
  devAddress := 0x68
  contexts := [⟨1, 1, 240, false⟩, ⟨0, 2, 60, true⟩]

end Config

end Sys2Proof
end

