-- ==== Sys2Proof/Syntax.lean ====
section
/-! DEFINITION. The operations (30_encoding.md R72), one constructor per row of spec/opcode_table.json, with
their typed operands (R73), and the operands of a command as values of those types. -/

namespace Sys2Proof

/-- The operations of the opcode map (R72). -/
inductive Instr where
  /-- `SET_GAIN w, gain` (R101) -/
  | setGain (w : Byte) (gain : Int)
  /-- `SET_RATE w, rate` (R102) -/
  | setRate (w : Byte) (rate : Rat)
  /-- `SET_CONT w, b` (R103) -/
  | setCont (w : Byte) (b : Bool)
  /-- `SET_CHAN w, index, count` (R104) -/
  | setChan (w : Byte) (index : Int) (count : Int)
  /-- `WITH_START w` (R105) -/
  | withStart (w : Byte)
  /-- `GET_GAIN w` (R106) -/
  | getGain (w : Byte)
  /-- `GET_RATE w` (R107) -/
  | getRate (w : Byte)
  /-- `GET_CONT w` (R108) -/
  | getCont (w : Byte)
  /-- `GET_CHAN w` (R109) -/
  | getChan (w : Byte)
  /-- `DECODE b0, b1, b2, rate` (R130) -/
  | decode (b0 : Byte) (b1 : Byte) (b2 : Byte) (rate : Rat)
  /-- `INITIATE w` (R150) -/
  | initiate (w : Byte)
  /-- `GET_CONV rate` (R151) -/
  | getConv (rate : Rat)
  /-- `ACTIVE_CHAN` (R152) -/
  | activeChan
  /-- `VALIDATE_CHAN index` (R153) -/
  | validateChan (index : Int)
  /-- `CONFIGURE h, gain, rate, b` (R170) -/
  | configure (h : Nat) (gain : Int) (rate : Rat) (b : Bool)
  /-- `START h` (R171) -/
  | start (h : Nat)
  /-- `CONV_TIME h` (R172) -/
  | convTime (h : Nat)
  /-- `GET_RAW h` (R173) -/
  | getRaw (h : Nat)
  /-- `GET_VOLTS h` (R174) -/
  | getVolts (h : Nat)
  /-- `IS_ACTIVE h` (R175) -/
  | isActive (h : Nat)
  /-- `CH_CFG h` (R176) -/
  | chCfg (h : Nat)
  /-- `SCALE raw, gain, max_code` (R190) -/
  | scale (raw : Int) (gain : Int) (maxCode : Int)
  deriving DecidableEq, Repr

/-- The opcodes of the map (R72), by name. -/
inductive Op where
  | setGain
  | setRate
  | setCont
  | setChan
  | withStart
  | getGain
  | getRate
  | getCont
  | getChan
  | decode
  | initiate
  | getConv
  | activeChan
  | validateChan
  | configure
  | start
  | convTime
  | getRaw
  | getVolts
  | isActive
  | chCfg
  | scale
  deriving DecidableEq, Repr

/-- The families of operations, the high nibble of the opcode (R71). -/
inductive Family where
  | codec
  | decoder
  | device
  | channel
  | scaler
  deriving DecidableEq, Repr

/-- The types of operands (R73): a byte (`w`, `b0`, `b1`, `b2`), an integer (`gain`, `index`, `count`, `raw`,
`max_code`), a rational (`rate`), a Boolean (`b`) or a handle (`h`). -/
inductive OperandType where
  | byte
  | int
  | rat
  | bool
  | handle
  deriving DecidableEq, Repr

/-- An operand: a value of one of the types (R73: operands are values, not fields of instruction bits). -/
inductive Operand where
  | byte (w : Byte)
  | int (i : Int)
  | rat (r : Rat)
  | bool (b : Bool)
  | handle (h : Nat)
  deriving DecidableEq, Repr

end Sys2Proof
end

