-- ==== Sys2Proof/WellFormed.lean ====
section
/-! DEFINITION. Which operations and operands are well formed: the types of the constructors carry R73 but for one
point, that a rate is a non-negative rational. An operation with a negative rate is ill formed, but it runs
(notes/assumptions/6.md). -/

namespace Sys2Proof

/-- A rate operand is a non-negative rational (R73); whether it is a rate of the table is for the operation to
say, since `InvalidArgument` must be reachable. -/
def rateWf (rate : Rat) : Bool := decide (0 ≤ rate.num)

/-- An operand is a value of its type in R73. -/
def Operand.wf : Operand → Bool
  | .byte _ => true
  | .int _ => true
  | .rat r => rateWf r
  | .bool _ => true
  | .handle _ => true

/-- The operands of an operation have the types of R73. -/
def Instr.wf : Instr → Bool
  | .setGain _ _ => true
  | .setRate _ rate => rateWf rate
  | .setCont _ _ => true
  | .setChan _ _ _ => true
  | .withStart _ => true
  | .getGain _ => true
  | .getRate _ => true
  | .getCont _ => true
  | .getChan _ => true
  | .decode _ _ _ rate => rateWf rate
  | .initiate _ => true
  | .getConv rate => rateWf rate
  | .activeChan => true
  | .validateChan _ => true
  | .configure _ _ rate _ => rateWf rate
  | .start _ => true
  | .convTime _ => true
  | .getRaw _ => true
  | .getVolts _ => true
  | .isActive _ => true
  | .chCfg _ => true
  | .scale _ _ _ => true

end Sys2Proof
end

