-- ==== Sys2Proof/Decode.lean ====
section
/-! DEFINITION. The command encoding (30_encoding.md R70 to R75): the opcode map, the decoder, the encoder and
the reading of a word of spec/opcode_table.json. -/

namespace Sys2Proof

/-- The opcode byte of each operation (R72). -/
def Op.byte : Op → Byte
  | .setGain => 0x01
  | .setRate => 0x02
  | .setCont => 0x03
  | .setChan => 0x04
  | .withStart => 0x05
  | .getGain => 0x06
  | .getRate => 0x07
  | .getCont => 0x08
  | .getChan => 0x09
  | .decode => 0x10
  | .initiate => 0x20
  | .getConv => 0x21
  | .activeChan => 0x22
  | .validateChan => 0x23
  | .configure => 0x30
  | .start => 0x31
  | .convTime => 0x32
  | .getRaw => 0x33
  | .getVolts => 0x34
  | .isActive => 0x35
  | .chCfg => 0x36
  | .scale => 0x40

/-- Every operation of the map, in the map's order (R72). -/
def Op.all : List Op :=
  [.setGain, .setRate, .setCont, .setChan, .withStart, .getGain, .getRate, .getCont, .getChan, .decode,
    .initiate, .getConv, .activeChan, .validateChan, .configure, .start, .convTime, .getRaw, .getVolts,
    .isActive, .chCfg, .scale]

/-- The operation an opcode byte spells, if any (R72, R74: a byte of no row spells none). -/
def Op.ofByte? (b : Byte) : Option Op := Op.all.find? (fun o => o.byte == b)

/-- The mnemonic of each operation (R72). -/
def Op.mnemonic : Op → String
  | .setGain => "SET_GAIN"
  | .setRate => "SET_RATE"
  | .setCont => "SET_CONT"
  | .setChan => "SET_CHAN"
  | .withStart => "WITH_START"
  | .getGain => "GET_GAIN"
  | .getRate => "GET_RATE"
  | .getCont => "GET_CONT"
  | .getChan => "GET_CHAN"
  | .decode => "DECODE"
  | .initiate => "INITIATE"
  | .getConv => "GET_CONV"
  | .activeChan => "ACTIVE_CHAN"
  | .validateChan => "VALIDATE_CHAN"
  | .configure => "CONFIGURE"
  | .start => "START"
  | .convTime => "CONV_TIME"
  | .getRaw => "GET_RAW"
  | .getVolts => "GET_VOLTS"
  | .isActive => "IS_ACTIVE"
  | .chCfg => "CH_CFG"
  | .scale => "SCALE"

/-- The operand tuple each opcode fixes (R72), by type (R73). -/
def Op.operandTypes : Op → List OperandType
  | .setGain => [.byte, .int]
  | .setRate => [.byte, .rat]
  | .setCont => [.byte, .bool]
  | .setChan => [.byte, .int, .int]
  | .withStart => [.byte]
  | .getGain => [.byte]
  | .getRate => [.byte]
  | .getCont => [.byte]
  | .getChan => [.byte]
  | .decode => [.byte, .byte, .byte, .rat]
  | .initiate => [.byte]
  | .getConv => [.rat]
  | .activeChan => []
  | .validateChan => [.int]
  | .configure => [.handle, .int, .rat, .bool]
  | .start => [.handle]
  | .convTime => [.handle]
  | .getRaw => [.handle]
  | .getVolts => [.handle]
  | .isActive => [.handle]
  | .chCfg => [.handle]
  | .scale => [.int, .int, .int]

/-- The family an opcode's high nibble names (R71). -/
def Family.ofNibble? (n : BitVec 4) : Option Family :=
  match n.toNat with
  | 0 => some .codec
  | 1 => some .decoder
  | 2 => some .device
  | 3 => some .channel
  | 4 => some .scaler
  | _ => none

/-- The type of an operand (R73). -/
def Operand.type : Operand → OperandType
  | .byte _ => .byte
  | .int _ => .int
  | .rat _ => .rat
  | .bool _ => .bool
  | .handle _ => .handle

/-- The operation an opcode and its operand tuple spell (R72, R75: exactly those operands). -/
def Op.read : Op → List Operand → Option Instr
  | .setGain, [.byte w, .int gain] => some (.setGain w gain)
  | .setRate, [.byte w, .rat rate] => some (.setRate w rate)
  | .setCont, [.byte w, .bool b] => some (.setCont w b)
  | .setChan, [.byte w, .int index, .int count] => some (.setChan w index count)
  | .withStart, [.byte w] => some (.withStart w)
  | .getGain, [.byte w] => some (.getGain w)
  | .getRate, [.byte w] => some (.getRate w)
  | .getCont, [.byte w] => some (.getCont w)
  | .getChan, [.byte w] => some (.getChan w)
  | .decode, [.byte b0, .byte b1, .byte b2, .rat rate] => some (.decode b0 b1 b2 rate)
  | .initiate, [.byte w] => some (.initiate w)
  | .getConv, [.rat rate] => some (.getConv rate)
  | .activeChan, [] => some .activeChan
  | .validateChan, [.int index] => some (.validateChan index)
  | .configure, [.handle h, .int gain, .rat rate, .bool b] => some (.configure h gain rate b)
  | .start, [.handle h] => some (.start h)
  | .convTime, [.handle h] => some (.convTime h)
  | .getRaw, [.handle h] => some (.getRaw h)
  | .getVolts, [.handle h] => some (.getVolts h)
  | .isActive, [.handle h] => some (.isActive h)
  | .chCfg, [.handle h] => some (.chCfg h)
  | .scale, [.int raw, .int gain, .int maxCode] => some (.scale raw gain maxCode)
  | _, _ => none

/-- The operands are the tuple the opcode fixes (R71, R72, R73); an opcode outside the map fixes none. -/
def operandsFit (op : Byte) (operands : List Operand) : Bool :=
  match Op.ofByte? op with
  | none => true
  | some o => operands.map Operand.type == o.operandTypes

/-- A command as the caller issues it (R71): an opcode byte followed by the operand tuple the opcode fixes. The spec
has no command with other operands (R71, R75), and there is none here. -/
structure Command where
  op : Byte
  operands : List Operand
  fits : operandsFit op operands = true
  deriving DecidableEq, Repr

/-- Why a command spells no operation. -/
inductive DecodeError where
  /-- The opcode is not in the map (R74). -/
  | illegalOpcode (op : Byte)
  deriving DecidableEq, Repr

/-- The decoder (R71 to R75), total on every command: it reads the opcode and then exactly the operands that opcode
fixes. Only an opcode outside the map spells no operation (`decode_eq_error_iff` of Laws/Decode.lean). -/
def decode (c : Command) : Except DecodeError Instr :=
  match (Op.ofByte? c.op).bind fun o => o.read c.operands with
  | some i => .ok i
  | none => .error (.illegalOpcode c.op)

/-- The opcode of an operation (R72). -/
def Instr.op : Instr → Op
  | .setGain _ _ => .setGain
  | .setRate _ _ => .setRate
  | .setCont _ _ => .setCont
  | .setChan _ _ _ => .setChan
  | .withStart _ => .withStart
  | .getGain _ => .getGain
  | .getRate _ => .getRate
  | .getCont _ => .getCont
  | .getChan _ => .getChan
  | .decode _ _ _ _ => .decode
  | .initiate _ => .initiate
  | .getConv _ => .getConv
  | .activeChan => .activeChan
  | .validateChan _ => .validateChan
  | .configure _ _ _ _ => .configure
  | .start _ => .start
  | .convTime _ => .convTime
  | .getRaw _ => .getRaw
  | .getVolts _ => .getVolts
  | .isActive _ => .isActive
  | .chCfg _ => .chCfg
  | .scale _ _ _ => .scale

/-- The operand tuple of an operation, in the map's order (R72). -/
def Instr.operands : Instr → List Operand
  | .setGain w gain => [.byte w, .int gain]
  | .setRate w rate => [.byte w, .rat rate]
  | .setCont w b => [.byte w, .bool b]
  | .setChan w index count => [.byte w, .int index, .int count]
  | .withStart w => [.byte w]
  | .getGain w => [.byte w]
  | .getRate w => [.byte w]
  | .getCont w => [.byte w]
  | .getChan w => [.byte w]
  | .decode b0 b1 b2 rate => [.byte b0, .byte b1, .byte b2, .rat rate]
  | .initiate w => [.byte w]
  | .getConv rate => [.rat rate]
  | .activeChan => []
  | .validateChan index => [.int index]
  | .configure h gain rate b => [.handle h, .int gain, .rat rate, .bool b]
  | .start h => [.handle h]
  | .convTime h => [.handle h]
  | .getRaw h => [.handle h]
  | .getVolts h => [.handle h]
  | .isActive h => [.handle h]
  | .chCfg h => [.handle h]
  | .scale raw gain maxCode => [.int raw, .int gain, .int maxCode]

/-- The encoder (R71, R72): the opcode byte, then the operand tuple. -/
def encode (i : Instr) : Command := ⟨i.op.byte, i.operands, by cases i <;> rfl⟩

/-- The zero of an operand type: what an operand that a table word gives no bits to holds. -/
def OperandType.zero : OperandType → Operand
  | .byte => .byte 0
  | .int => .int 0
  | .rat => .rat 0
  | .bool => .bool false
  | .handle => .handle 0

/-- The operand tuple an opcode fixes, every operand zero. -/
def zeroOperands (op : Byte) : List Operand :=
  match Op.ofByte? op with
  | none => []
  | some o => o.operandTypes.map OperandType.zero

theorem zeroOperands_fit (op : Byte) : operandsFit op (zeroOperands op) = true := by
  unfold operandsFit zeroOperands
  split
  · rfl
  · rename_i o _
    cases o <;> rfl

/-- The command of a word of spec/opcode_table.json: its 8 bits are the opcode byte, and every operand of the
tuple that opcode fixes is zero. -/
def tableCommand (w : Nat) : Command :=
  ⟨BitVec.ofNat 8 w, zeroOperands (BitVec.ofNat 8 w), zeroOperands_fit _⟩

/-- The operation the decoder reads from a word of spec/opcode_table.json of `nbits` bits: none where the word
has a bit outside the opcode byte (no operand is assembled from instruction bits, R73) or is refused. -/
def decodeTableWord (nbits w : Nat) : Option Instr :=
  if w < 2 ^ nbits ∧ w < 256 then
    match decode (tableCommand w) with
    | .ok i => some i
    | .error _ => none
  else none

end Sys2Proof
end

