-- ==== Sys2Proof/Machine/State.lean ====
section
/-! DEFINITION. The state of the block (10_state.md), the outcomes of operations (00_scope.md R13) and the state
right after reset (70_reset_and_hazards.md R240 to R242). -/

namespace Sys2Proof.Machine

/-- The faults (60_exceptions.md R215). -/
inductive Fault where
  /-- `dev.last_config` was read while `Unwritten`: `GET_CONV`, `ACTIVE_CHAN`, `GET_RAW`, `GET_VOLTS` and
  `IS_ACTIVE` record it in `State.fault` (R215); after that the gate (R218) answers every step with it. Safe:
  the spec gives the block no further step. -/
  | unwrittenLastConfig
  deriving DecidableEq, Repr

/-- The refusals (60_exceptions.md R216), and one of the model's own. -/
inductive Refusal where
  /-- An opcode outside the map (R74): a step records it in `State.refused`; after that the gate (R218) answers
  every step with it. Safe: the spec gives the block no further step. -/
  | illegalOpcode (op : Byte)
  /-- A handle outside the contexts (R216): every channel operation records it; then as above. Safe. -/
  | badHandle (h : Nat)
  /-- A use of the 18-bit resolution as a decode width or a scale (R216, D5): `DECODE`, `GET_CONV` and `SCALE`
  (and `GET_RAW`, `GET_VOLTS` in states that no run reaches) record it; then as above. Safe. -/
  | unsupported18Bit
  /-- An operation that has no meaning yet: raised by an arm of `exec`. Safe. No arm raises it. -/
  | notModelled (mnemonic : String)
  deriving DecidableEq, Repr

/-- The field an `InvalidArgument` names (R211, R214). -/
inductive ArgField where
  | gain
  | rate
  | channel
  | count
  | maxCode
  deriving DecidableEq, Repr

/-- The offending value an `InvalidArgument` records (R211): an integer operand or a rate. -/
inductive ArgValue where
  | int (i : Int)
  | rat (r : Rat)
  deriving DecidableEq, Repr

/-- The direction a `BusError` carries (R213). -/
inductive Direction where
  | write
  | read
  deriving DecidableEq, Repr

/-- The architected errors (R210 to R213): values returned to the caller, not transfers of control. -/
inductive OpError where
  | invalidArgument (field : ArgField) (value : ArgValue)
  | conversionNotReady
  | busError (dir : Direction)
  deriving DecidableEq, Repr

/-- How an operation ends (R13): a result, an architected error, a fault or a refusal. -/
inductive OpOutcome (α : Type) where
  | ok (v : α)
  | raise (e : OpError)
  | fault (f : Fault)
  | refuse (r : Refusal)
  deriving DecidableEq, Repr

/-- The result values of the operations (30_encoding.md R72, column "result"). -/
inductive Value where
  | unit
  | word (w : Byte)
  | wordMaxCode (w : Byte) (maxCode : Int)
  | gain (g : Int)
  | rate (r : Rat)
  | bool (b : Bool)
  | index (i : Int)
  | code (c : Int)
  | seconds (t : Rat)
  | volts (v : Rat)
  deriving DecidableEq, Repr

/-- A bus transaction as the block issues it (R12, R41, R42). -/
inductive BusTxn where
  | write (addr : Address) (byte : Byte)
  | read (addr : Address) (cmd : Byte) (length : Nat)
  deriving DecidableEq, Repr

/-- The cached configuration byte (R23): the spec's own two cases. -/
inductive LastConfig where
  | unwritten
  | byte (w : Byte)
  deriving DecidableEq, Repr

/-- The one Device record (R20 to R23). -/
structure Device where
  /-- `dev.address` (R21) -/
  address : Address
  /-- `dev.channel_count` (R22) -/
  channelCount : ChannelCount
  /-- `dev.last_config` (R23) -/
  lastConfig : LastConfig
  deriving DecidableEq, Repr

/-- A channel context (R25 to R31). -/
structure Channel where
  /-- `ch[h].mux_index` (R26) -/
  muxIndex : MuxCode
  /-- `ch[h].gain` (R27) -/
  gain : Gain
  /-- `ch[h].sample_rate` (R29) -/
  sampleRate : Rate
  /-- `ch[h].continuous` (R30) -/
  continuous : Bool
  /-- `ch[h].phase` (R31), ghost -/
  phase : Phase
  deriving DecidableEq, Repr

/-- The state of the block: the Device and the contexts (R20), the bookkeeping of R35, and the model's own
fields for the block's interface (notes/assumptions/2.md, 3.md and 4.md). -/
structure State where
  /-- `dev` (R20) -/
  dev : Device
  /-- `ch[0]` to `ch[CH_CTX_COUNT-1]` (R20) -/
  ch : List Channel
  /-- `fault` (R35) -/
  fault : Option Fault
  /-- `refused` (R35) -/
  refused : Option Refusal
  /-- The commands issued and not yet executed, next first (R70); a list of them is the model's (R49 and R70 have one
  command at a time; notes/assumptions/2.md). -/
  commands : List Command
  /-- The oracle's answers to the coming `BusWrite`s, next first (R44). -/
  writeAnswers : List WriteAnswer
  /-- The oracle's answers to the coming `BusRead`s, next first (R44). -/
  readAnswers : List ReadAnswer
  /-- The transactions performed, newest first (R41). -/
  txns : List BusTxn
  /-- The outcomes returned to the caller, newest first (R13, R257). -/
  outcomes : List (OpOutcome Value)
  deriving DecidableEq, Repr

/-- The block right after reset (R240 to R242), built from the parameters `Config.build`
(notes/assumptions/1.md); Machine/Build.lean builds it from them. -/
def State.reset : State where
  dev := { address := 0x68, channelCount := .four, lastConfig := .unwritten }
  ch :=
    [{ muxIndex := 1, gain := .x1, sampleRate := .sps240, continuous := false, phase := .idle },
      { muxIndex := 0, gain := .x2, sampleRate := .sps60, continuous := true, phase := .idle }]
  fault := none
  refused := none
  commands := []
  writeAnswers := []
  readAnswers := []
  txns := []
  outcomes := []

end Sys2Proof.Machine
end

