-- ==== Sys2Proof/Machine/Operands.lean ====
section
/-! DEFINITION. The fields of the configuration word and the checks of operands (30_encoding.md R60 to R66,
41_config_codec.md R100 to R109, 60_exceptions.md R211, R217). -/

namespace Sys2Proof.Machine

/-! ### Outcomes in sequence -/

/-- Run `k` on the result of `r`; an error, a fault or a refusal ends the whole operation with the same outcome
(R13, R220). -/
def OpOutcome.bind {α β : Type} (r : OpOutcome α) (k : α → OpOutcome β) : OpOutcome β :=
  match r with
  | .ok v => k v
  | .raise e => .raise e
  | .fault f => .fault f
  | .refuse x => .refuse x

/-- `OpOutcome.bind` for a continuation that also changes the state: on anything but `ok` the state stays. -/
def OpOutcome.andThen {α β : Type} (r : OpOutcome α) (s : State) (k : α → OpOutcome β × State) :
    OpOutcome β × State :=
  match r with
  | .ok v => k v
  | .raise e => (.raise e, s)
  | .fault f => (.fault f, s)
  | .refuse x => (.refuse x, s)

/-- Wrap the result of an operation as a value of the interface. -/
def OpOutcome.map {α β : Type} (f : α → β) (r : OpOutcome α) : OpOutcome β := r.bind fun v => .ok (f v)

/-- A check of an argument as an outcome: what fails it is raised (R13, R211). -/
def OpOutcome.lift {α : Type} (r : Except OpError α) : OpOutcome α :=
  match r with
  | .ok v => .ok v
  | .error e => .raise e

/-! ### The closed sets as numbers -/

/-- The channel count as a number (R9). -/
def channelCountValue : ChannelCount → Nat
  | .one => 1
  | .two => 2
  | .four => 4

/-- The channel count a number names, if it is one of the family's (R9). -/
def channelCountOf? (n : Int) : Option ChannelCount :=
  if n = 1 then some .one else if n = 2 then some .two else if n = 4 then some .four else none

/-- The gain as a number (R61). -/
def gainValue : Gain → Nat
  | .x1 => 1
  | .x2 => 2
  | .x4 => 4
  | .x8 => 8

/-- The gain a number names, if it is one of {1, 2, 4, 8} (R61, R101). -/
def gainOf? (g : Int) : Option Gain :=
  if g = 1 then some .x1
  else if g = 2 then some .x2
  else if g = 4 then some .x4
  else if g = 8 then some .x8
  else none

/-- The rate 3.75 sps, that is 15/4, written in lowest terms (R62). -/
def rate3p75 : Rat := { num := 15, den := 4, den_nz := by decide, reduced := by decide }

/-- The sample rate of a row of the rate table, in samples per second (R62, R100). -/
def rateSps : Rate → Rat
  | .sps240 => 240
  | .sps60 => 60
  | .sps15 => 15
  | .sps3p75 => rate3p75

/-- The row of the rate table a rate names, if any (R62, R100). -/
def rateOfSps? (r : Rat) : Option Rate :=
  if r = 240 then some .sps240
  else if r = 60 then some .sps60
  else if r = 15 then some .sps15
  else if r = rate3p75 then some .sps3p75
  else none

/-- `Res` (R100): the resolution N in bits. -/
def rateRes : Rate → Nat
  | .sps240 => 12
  | .sps60 => 14
  | .sps15 => 16
  | .sps3p75 => 18

/-- `MaxCode` (R100): the full-scale code 2^(N-1) - 1 of the row. -/
def rateMaxCode : Rate → Int
  | .sps240 => 2047
  | .sps60 => 8191
  | .sps15 => 32767
  | .sps3p75 => 131071

/-- The rows of the table that `SET_RATE` accepts and the decoder supports (R100; `SUPPORTED_RES`, R7; D5). -/
def rateSettable : Rate → Bool
  | .sps240 => true
  | .sps60 => true
  | .sps15 => true
  | .sps3p75 => false

/-- The row of the table a full-scale code names, if any (R100). -/
def rateOfMaxCode? (mc : Int) : Option Rate :=
  if mc = 2047 then some .sps240
  else if mc = 8191 then some .sps60
  else if mc = 32767 then some .sps15
  else if mc = 131071 then some .sps3p75
  else none

/-! ### Field codes -/

/-- `GainCode` (R61). -/
def gainCode : Gain → BitVec 2
  | .x1 => 0b00
  | .x2 => 0b01
  | .x4 => 0b10
  | .x8 => 0b11

/-- `GainOf` (R61). -/
def gainOfCode (c : BitVec 2) : Gain :=
  match c.toNat with
  | 0 => .x1
  | 1 => .x2
  | 2 => .x4
  | _ => .x8

/-- `RateCode` (R62). -/
def rateCode : Rate → BitVec 2
  | .sps240 => 0b00
  | .sps60 => 0b01
  | .sps15 => 0b10
  | .sps3p75 => 0b11

/-- `RateOf`, as a row of the table (R62). -/
def rateOfCode (c : BitVec 2) : Rate :=
  match c.toNat with
  | 0 => .sps240
  | 1 => .sps60
  | 2 => .sps15
  | _ => .sps3p75

/-- `ContBit` (R63). -/
def contBit (b : Bool) : BitVec 1 := if b then 1 else 0

/-- `ContOf` (R63). -/
def contOf (c : BitVec 1) : Bool := c == 1

/-! ### The fields of a word (R60) -/

/-- Write the `GAIN` field, bits 1:0 (R101). -/
def putGain (w : Byte) (g : Gain) : Byte := (w &&& (0xFC : Byte)) ||| (gainCode g).setWidth 8

/-- Write the `RATE` field, bits 3:2 (R102). -/
def putRate (w : Byte) (r : Rate) : Byte := (w &&& (0xF3 : Byte)) ||| ((rateCode r).setWidth 8 <<< 2)

/-- Write the `MODE` field, bit 4 (R103). -/
def putCont (w : Byte) (b : Bool) : Byte := (w &&& (0xEF : Byte)) ||| ((contBit b).setWidth 8 <<< 4)

/-- Write the `MUX` field, bits 6:5 (R104). -/
def putMux (w : Byte) (m : MuxCode) : Byte := (w &&& (0x9F : Byte)) ||| (m.setWidth 8 <<< 5)

/-- Read the `GAIN` field, bits 1:0 (R106). -/
def gainField (w : Byte) : Gain := gainOfCode (w.extractLsb' 0 2)

/-- Read the `RATE` field, bits 3:2 (R107). -/
def rateField (w : Byte) : Rate := rateOfCode (w.extractLsb' 2 2)

/-- Read the `MODE` field, bit 4 (R108). -/
def contField (w : Byte) : Bool := contOf (w.extractLsb' 4 1)

/-- Read the `MUX` field, bits 6:5 (R109). -/
def muxField (w : Byte) : MuxCode := w.extractLsb' 5 2

/-- `Compose` (R66): the OR of the four field encodings at their places, bit 7 = 0. -/
def compose (m : MuxCode) (b : Bool) (r : Rate) (g : Gain) : Byte :=
  (m.setWidth 8 <<< 5) ||| ((contBit b).setWidth 8 <<< 4) ||| ((rateCode r).setWidth 8 <<< 2) |||
    (gainCode g).setWidth 8

/-- `config_byte` of a context, derived and not stored (R28). -/
def configByte (c : Channel) : Byte := compose c.muxIndex c.continuous c.sampleRate c.gain

/-! ### Checks of operands: what fails one is an architected error -/

/-- `gain` must be one of {1, 2, 4, 8} (R101, R170, R190, R241). -/
def checkGain (gain : Int) : Except OpError Gain :=
  match gainOf? gain with
  | some g => .ok g
  | none => .error (.invalidArgument .gain (.int gain))

/-- `rate` must be one of {15, 60, 240} (R102, R170, R241): 3.75 is `InvalidArgument` here (D5). -/
def checkRate (rate : Rat) : Except OpError Rate :=
  match rateOfSps? rate with
  | some r => if rateSettable r then .ok r else .error (.invalidArgument .rate (.rat rate))
  | none => .error (.invalidArgument .rate (.rat rate))

/-- `rate` as a decode width (R130, R151): 3.75 is refused first (R217), then any rate outside {15, 60, 240} is
`InvalidArgument`. -/
def checkWidth (rate : Rat) : OpOutcome Rate :=
  if rate = rate3p75 then .refuse .unsupported18Bit else .lift (checkRate rate)

/-- `count` must be a channel count of the family (R104, D11). -/
def checkCount (count : Int) : Except OpError ChannelCount :=
  match channelCountOf? count with
  | some n => .ok n
  | none => .error (.invalidArgument .count (.int count))

/-- `index` must satisfy `0 <= index < count` (R104, R153, R241). -/
def checkChannel (count : ChannelCount) (index : Int) : Except OpError MuxCode :=
  if 0 ≤ index ∧ index < channelCountValue count then .ok (BitVec.ofInt 2 index)
  else .error (.invalidArgument .channel (.int index))

/-- `max_code` must be one of {2047, 8191, 32767} (R190); 131071 is refused before any argument is checked. -/
def checkMaxCode (maxCode : Int) : Except OpError Rate :=
  match rateOfMaxCode? maxCode with
  | some r => if rateSettable r then .ok r else .error (.invalidArgument .maxCode (.int maxCode))
  | none => .error (.invalidArgument .maxCode (.int maxCode))

/-! ### Numeric codes of outcomes (R214) -/

/-- The code of an architected error (R214). -/
def errorCode : OpError → Nat
  | .invalidArgument _ _ => 1
  | .conversionNotReady => 2
  | .busError _ => 3

/-- The info code of a field (R214). -/
def fieldCode : ArgField → Nat
  | .gain => 1
  | .rate => 2
  | .channel => 3
  | .count => 4
  | .maxCode => 5

/-- The info code of a direction (R214). -/
def directionCode : Direction → Nat
  | .write => 1
  | .read => 2

/-- The info code of an architected error, if it has one (R214). -/
def errorInfoCode : OpError → Option Nat
  | .invalidArgument field _ => some (fieldCode field)
  | .conversionNotReady => none
  | .busError dir => some (directionCode dir)

/-- The code of an outcome (R214): 0 for `Ok`; a fault or a refusal is no outcome with a code. -/
def outcomeCode {α : Type} : OpOutcome α → Option Nat
  | .ok _ => some 0
  | .raise e => some (errorCode e)
  | .fault _ => none
  | .refuse _ => none

end Sys2Proof.Machine
end

