-- ==== Sys2Proof/Machine/Flags.lean ====
section
/-! DEFINITION. The two flag-like bits (10_state.md R33): the start bit of a transmitted word and the ready bit
of a status byte. The block keeps no flag (R33). -/

namespace Sys2Proof.Machine

/-- Set the start bit, bit 7 (R65, R105). -/
def setStart (w : Byte) : Byte := w ||| 0x80

/-- The word without the start bit, as it is cached (R23, R150). -/
def clearStart (w : Byte) : Byte := w &&& 0x7F

/-- The status byte says that the conversion is ready: bit 7 is 0 (R67, R130). Bits 6:0 are not read (D6). -/
def statusReady (b2 : Byte) : Bool := !b2.getLsbD 7

end Sys2Proof.Machine
end

