-- ==== Sys2Proof/Machine/Ops.lean ====
section
/-! DEFINITION. The shared operations: the gate and the end of an operation (60_exceptions.md R215 to R218), the
bus (20_memory.md R41 to R44), the contexts, the result decoder (42_result_decoder.md R130), the scaler
(45_voltage_scaler.md R190 to R192) and the device and channel operations that others are built from. -/

namespace Sys2Proof.Machine

/-! ### The gate and the end of an operation -/

/-- Record what an operation ended in (R13, R215, R216): its outcome is returned to the caller, and a fault or a
refusal is recorded, the first reason only (R35). An architected error records nothing (R219). -/
def finish (r : OpOutcome Value × State) : State :=
  let s := { r.2 with outcomes := r.1 :: r.2.outcomes }
  match r.1 with
  | .ok _ => s
  | .raise _ => s
  | .fault f => { s with fault := some (s.fault.getD f) }
  | .refuse x => { s with refused := some (s.refused.getD x) }

/-- The gate (R218): with a fault or a refusal recorded there is no step, and the stop's reason is the recorded
one; otherwise `k` runs. -/
def gate (s : State) (k : Host.Outcome State Fault Refusal) : Host.Outcome State Fault Refusal :=
  match s.fault, s.refused with
  | some f, _ => .fault f
  | none, some x => .refused x
  | none, none => k

/-- Run an operation behind the gate and end it (R218, R13). -/
def operate (s : State) (op : State → OpOutcome Value × State) : Host.Outcome State Fault Refusal :=
  gate s (.next (finish (op s)))

/-- An operation that neither reads nor writes state nor touches the bus (R41). -/
def compute (s : State) (r : OpOutcome Value) : Host.Outcome State Fault Refusal :=
  operate s fun s => (r, s)

/-- A channel operation (R218): refused with `BadHandle(h)` unless `h < CH_CTX_COUNT`, before anything else. -/
def operateOn (h : Nat) (s : State) (op : Channel → State → OpOutcome Value × State) :
    Host.Outcome State Fault Refusal :=
  operate s fun s =>
    match s.ch[h]? with
    | none => (.refuse (.badHandle h), s)
    | some c => op c s

/-! ### Updates of state -/

/-- `dev.last_config <- w` (R23). -/
def State.setLastConfig (s : State) (w : Byte) : State :=
  { s with dev := { s.dev with lastConfig := .byte w } }

/-- `ch[h] <- c` (R25). -/
def State.setChannel (s : State) (h : Nat) (c : Channel) : State := { s with ch := s.ch.set h c }

/-! ### The bus -/

/-- A result frame, the three bytes of a read in transport order (R46, R67). -/
structure Frame where
  b0 : Byte
  b1 : Byte
  b2 : Byte
  deriving DecidableEq, Repr

/-- The frame of a read answer: exactly three bytes; any other answer is `TransportError` (R44, D31). -/
def readFrame? : ReadAnswer → Option Frame
  | .bytes [b0, b1, b2] => some ⟨b0, b1, b2⟩
  | .bytes _ => none
  | .transportError => none

/-- The answer the oracle gives to the next `BusWrite`: the next one in `writeAnswers`, else the free draw of
this transaction (R44). -/
def State.nextWriteAnswer (s : State) : WriteAnswer :=
  match s.writeAnswers with
  | a :: _ => a
  | [] => Config.freeWriteAnswer s.txns.length

/-- The answer the oracle gives to the next `BusRead`, likewise (R44). -/
def State.nextReadAnswer (s : State) : ReadAnswer :=
  match s.readAnswers with
  | a :: _ => a
  | [] => Config.freeReadAnswer s.txns.length

/-- `BusWrite(addr, byte)` (R12, R41, R42): one transaction of one byte; never retried (R43). -/
def busWrite (addr : Address) (byte : Byte) (s : State) : WriteAnswer × State :=
  (s.nextWriteAnswer,
    { s with writeAnswers := s.writeAnswers.tail, txns := .write addr byte :: s.txns })

/-- `BusRead(addr, cmd, 3)` (R12, R41, R42): one transaction of `READ_LENGTH` bytes; none is `TransportError`. -/
def busRead (addr : Address) (cmd : Byte) (s : State) : Option Frame × State :=
  (readFrame? s.nextReadAnswer,
    { s with readAnswers := s.readAnswers.tail, txns := .read addr cmd Config.readLength :: s.txns })

/-! ### The result decoder -/

/-- `W` (R46, R67): the 16-bit data word, `b0` its most significant byte (D4). -/
def dataWord (f : Frame) : BitVec 16 := f.b0 ++ f.b1

/-- `U` (R68): the low N bits of `W` (D16). -/
def dataField (f : Frame) (r : Rate) : Int := ((dataWord f).toNat % 2 ^ rateRes r : Nat)

/-- The reconstruction (R130, R131): a `U` above `max_code` has `2*(max_code+1)` subtracted. -/
def signedCode (u : Int) (maxCode : Int) : Int := if u > maxCode then u - 2 * (maxCode + 1) else u

/-- Readiness, then reconstruction, at a width that has been checked (R130). -/
def decodeFrame (f : Frame) (r : Rate) : OpOutcome Int :=
  if statusReady f.b2 then .ok (signedCode (dataField f r) (rateMaxCode r)) else .raise .conversionNotReady

/-! ### The scaler -/

/-- `Scale(raw, gain, mc) = raw * (VREF / mc) / gain` (R190), exact (R191). -/
def scaleVolts (raw : Int) (gain : Gain) (maxCode : Int) : Rat :=
  (raw : Rat) * (Config.vref / (maxCode : Rat)) / (gainValue gain : Rat)

/-- The value as it leaves the block (R192): the exact one, or the realisation's one rounding of it. -/
def voltOut (repr : VoltRepr) (v : Rat) : Rat :=
  match repr with
  | .exact => v
  | .binary64 => Config.voltRound .binary64 v
  | .fixedPoint n => Config.voltRound (.fixedPoint n) v

/-! ### Device operations that others are built from -/

/-- `INITIATE w` behind the gate (R150): transmit `w` with the start bit; cache `w` without it, only if the
write succeeded (D10). -/
def initiateDevice (w : Byte) (s : State) : OpOutcome Unit × State :=
  match busWrite s.dev.address (setStart w) s with
  | (.transportError, s1) => (.raise (.busError .write), s1)
  | (.ok, s1) => (.ok (), s1.setLastConfig (clearStart w))

/-- `GET_CONV rate` behind the gate (R151): the width, then the cached byte, then one read, then the decoder. -/
def getConversion (rate : Rat) (s : State) : OpOutcome Int × State :=
  (checkWidth rate).andThen s fun r =>
    match s.dev.lastConfig with
    | .unwritten => (.fault .unwrittenLastConfig, s)
    | .byte cmd =>
      match busRead s.dev.address cmd s with
      | (none, s1) => (.raise (.busError .read), s1)
      | (some f, s1) => (decodeFrame f r, s1)

/-- `ACTIVE_CHAN` behind the gate (R152). -/
def activeChannel (s : State) : OpOutcome MuxCode :=
  match s.dev.lastConfig with
  | .unwritten => .fault .unwrittenLastConfig
  | .byte w => .ok (muxField w)

/-! ### Channel operations that others are built from -/

/-- `GET_RAW h` behind the gate, on the context `c` that `h` names (R173): `GET_CONV` at the context's current
rate; the phase becomes `Idle` on success only (D14). -/
def getRawCode (h : Nat) (c : Channel) (s : State) : OpOutcome Int × State :=
  match getConversion (rateSps c.sampleRate) s with
  | (.ok code, s1) => (.ok code, s1.setChannel h { c with phase := .idle })
  | (.raise e, s1) => (.raise e, s1)
  | (.fault f, s1) => (.fault f, s1)
  | (.refuse x, s1) => (.refuse x, s1)

end Sys2Proof.Machine
end

