-- ==== Sys2Proof/Machine/ChannelOps.lean ====
section
/-! DEFINITION. The channel operations (44_channel.md). -/

namespace Sys2Proof.Machine

/-- `CONFIGURE h, gain, rate, b` (R170): every check, gain first (D11), before the three fields change together. -/
def execConfigure (h : Nat) (gain : Int) (rate : Rat) (b : Bool) (s : State) :
    Host.Outcome State Fault Refusal :=
  operateOn h s fun c s =>
    (OpOutcome.lift (checkGain gain)).andThen s fun g =>
      (OpOutcome.lift (checkRate rate)).andThen s fun r =>
        (.ok .unit, s.setChannel h { c with gain := g, sampleRate := r, continuous := b })

/-- `START h` (R171): `INITIATE` of the context's config byte; the phase becomes `Awaiting` on success only. -/
def execStart (h : Nat) (s : State) : Host.Outcome State Fault Refusal :=
  operateOn h s fun c s =>
    (initiateDevice (configByte c) s).1.andThen (initiateDevice (configByte c) s).2 fun _ =>
      (.ok .unit, (initiateDevice (configByte c) s).2.setChannel h { c with phase := .awaiting })

/-- `CONV_TIME h` (R172): 1 / sample_rate seconds, exact (D27). -/
def execConvTime (h : Nat) (s : State) : Host.Outcome State Fault Refusal :=
  operateOn h s fun c s => (.ok (.seconds (1 / rateSps c.sampleRate)), s)

/-- `GET_RAW h` (R173). -/
def execGetRaw (h : Nat) (s : State) : Host.Outcome State Fault Refusal :=
  operateOn h s fun c s => ((getRawCode h c s).1.map .code, (getRawCode h c s).2)

/-- `GET_VOLTS h` (R174): the code of `GET_RAW`, scaled with the context's current gain and full-scale code. -/
def execGetVolts (h : Nat) (s : State) : Host.Outcome State Fault Refusal :=
  operateOn h s fun c s =>
    ((getRawCode h c s).1.map fun code =>
        .volts (voltOut Config.voltRepr (scaleVolts code c.gain (rateMaxCode c.sampleRate))),
      (getRawCode h c s).2)

/-- `IS_ACTIVE h` (R175). -/
def execIsActive (h : Nat) (s : State) : Host.Outcome State Fault Refusal :=
  operateOn h s fun c s => ((activeChannel s).map fun m => .bool (m == c.muxIndex), s)

/-- `CH_CFG h` (R176). -/
def execChCfg (h : Nat) (s : State) : Host.Outcome State Fault Refusal :=
  operateOn h s fun c s => (.ok (.word (configByte c)), s)

end Sys2Proof.Machine
end

