-- ==== Sys2Proof/Machine/Codec.lean ====
section
/-! DEFINITION. The codec operations (41_config_codec.md): pure, on an 8-bit word. -/

namespace Sys2Proof.Machine

/-- `SET_GAIN w, gain` (R101). -/
def execSetGain (w : Byte) (gain : Int) (s : State) : Host.Outcome State Fault Refusal :=
  compute s (.lift ((checkGain gain).map fun g => .word (putGain w g)))

/-- `SET_RATE w, rate` (R102): the word and the full-scale code. -/
def execSetRate (w : Byte) (rate : Rat) (s : State) : Host.Outcome State Fault Refusal :=
  compute s (.lift ((checkRate rate).map fun r => .wordMaxCode (putRate w r) (rateMaxCode r)))

/-- `SET_CONT w, b` (R103). -/
def execSetCont (w : Byte) (b : Bool) (s : State) : Host.Outcome State Fault Refusal :=
  compute s (.ok (.word (putCont w b)))

/-- `SET_CHAN w, index, count` (R104): the count is checked first (D11). -/
def execSetChan (w : Byte) (index count : Int) (s : State) : Host.Outcome State Fault Refusal :=
  compute s (.lift ((checkCount count).bind fun n => (checkChannel n index).map fun m => .word (putMux w m)))

/-- `WITH_START w` (R105). -/
def execWithStart (w : Byte) (s : State) : Host.Outcome State Fault Refusal :=
  compute s (.ok (.word (setStart w)))

/-- `GET_GAIN w` (R106). -/
def execGetGain (w : Byte) (s : State) : Host.Outcome State Fault Refusal :=
  compute s (.ok (.gain (gainValue (gainField w))))

/-- `GET_RATE w` (R107): code 11 reads back as 3.75. -/
def execGetRate (w : Byte) (s : State) : Host.Outcome State Fault Refusal :=
  compute s (.ok (.rate (rateSps (rateField w))))

/-- `GET_CONT w` (R108). -/
def execGetCont (w : Byte) (s : State) : Host.Outcome State Fault Refusal :=
  compute s (.ok (.bool (contField w)))

/-- `GET_CHAN w` (R109): no check against a channel count. -/
def execGetChan (w : Byte) (s : State) : Host.Outcome State Fault Refusal :=
  compute s (.ok (.index (muxField w).toNat))

end Sys2Proof.Machine
end

