-- ==== Sys2Proof/Machine/Decoder.lean ====
section
/-! DEFINITION. The decoder operation (42_result_decoder.md). -/

namespace Sys2Proof.Machine

/-- `DECODE b0, b1, b2, rate` (R130): the width before readiness (R217). -/
def execDecode (b0 b1 b2 : Byte) (rate : Rat) (s : State) : Host.Outcome State Fault Refusal :=
  compute s ((checkWidth rate).bind fun r => (decodeFrame ⟨b0, b1, b2⟩ r).map .code)

end Sys2Proof.Machine
end

