-- ==== Sys2Proof/Machine/DeviceOps.lean ====
section
/-! DEFINITION. The device operations (43_device.md). -/

namespace Sys2Proof.Machine

/-- `INITIATE w` (R150). -/
def execInitiate (w : Byte) (s : State) : Host.Outcome State Fault Refusal :=
  operate s fun s => ((initiateDevice w s).1.map fun _ => .unit, (initiateDevice w s).2)

/-- `GET_CONV rate` (R151). -/
def execGetConv (rate : Rat) (s : State) : Host.Outcome State Fault Refusal :=
  operate s fun s => ((getConversion rate s).1.map .code, (getConversion rate s).2)

/-- `ACTIVE_CHAN` (R152). -/
def execActiveChan (s : State) : Host.Outcome State Fault Refusal :=
  operate s fun s => ((activeChannel s).map fun m => .index m.toNat, s)

/-- `VALIDATE_CHAN index` (R153). -/
def execValidateChan (index : Int) (s : State) : Host.Outcome State Fault Refusal :=
  operate s fun s => (.lift ((checkChannel s.dev.channelCount index).map fun _ => .unit), s)

end Sys2Proof.Machine
end

