-- ==== Sys2Proof/Machine/Scaler.lean ====
section
/-! DEFINITION. The scaler operation (45_voltage_scaler.md). -/

namespace Sys2Proof.Machine

/-- `SCALE raw, gain, max_code` (R190): the 18-bit refusal, then gain, then max_code (R217). -/
def execScale (raw gain maxCode : Int) (s : State) : Host.Outcome State Fault Refusal :=
  compute s
    (if maxCode = rateMaxCode .sps3p75 then .refuse .unsupported18Bit
    else
      .lift ((checkGain gain).bind fun g =>
        (checkMaxCode maxCode).map fun r =>
          .volts (voltOut Config.voltRepr (scaleVolts raw g (rateMaxCode r)))))

end Sys2Proof.Machine
end

