-- ==== Sys2Proof/Machine/Dispatch.lean ====
section
/-! DEFINITION. One arm per operation of the opcode map (30_encoding.md R72). -/

namespace Sys2Proof.Machine

def exec (i : Instr) (s : State) : Host.Outcome State Fault Refusal :=
  match i with
  | .setGain w gain => Sys2Proof.Machine.execSetGain w gain s
  | .setRate w rate => Sys2Proof.Machine.execSetRate w rate s
  | .setCont w b => Sys2Proof.Machine.execSetCont w b s
  | .setChan w index count => Sys2Proof.Machine.execSetChan w index count s
  | .withStart w => Sys2Proof.Machine.execWithStart w s
  | .getGain w => Sys2Proof.Machine.execGetGain w s
  | .getRate w => Sys2Proof.Machine.execGetRate w s
  | .getCont w => Sys2Proof.Machine.execGetCont w s
  | .getChan w => Sys2Proof.Machine.execGetChan w s
  | .decode b0 b1 b2 rate => Sys2Proof.Machine.execDecode b0 b1 b2 rate s
  | .initiate w => Sys2Proof.Machine.execInitiate w s
  | .getConv rate => Sys2Proof.Machine.execGetConv rate s
  | .activeChan => Sys2Proof.Machine.execActiveChan s
  | .validateChan index => Sys2Proof.Machine.execValidateChan index s
  | .configure h gain rate b => Sys2Proof.Machine.execConfigure h gain rate b s
  | .start h => Sys2Proof.Machine.execStart h s
  | .convTime h => Sys2Proof.Machine.execConvTime h s
  | .getRaw h => Sys2Proof.Machine.execGetRaw h s
  | .getVolts h => Sys2Proof.Machine.execGetVolts h s
  | .isActive h => Sys2Proof.Machine.execIsActive h s
  | .chCfg h => Sys2Proof.Machine.execChCfg h s
  | .scale raw gain maxCode => Sys2Proof.Machine.execScale raw gain maxCode s

end Sys2Proof.Machine
end

