-- ==== Sys2Proof/Machine/Fetch.lean ====
section
/-! DEFINITION. Taking the next command the caller issued (30_encoding.md R70) and refusing one that spells no
operation (R74, 60_exceptions.md R216). -/

namespace Sys2Proof.Machine

/-- The caller issues a command, to be executed next (R70). DESIGN CHOICE (notes/assumptions/2.md): the spec has one
command at a time and no list of pending ones (R49, R70), so it does not say where a command stands that is issued
while others are pending; here it stands before them. -/
def State.issue (s : State) (c : Command) : State := { s with commands := c :: s.commands }

/-- The next command, and the state without it; none when none is issued (R70). -/
def fetch (s : State) : Option (Command × State) :=
  match s.commands with
  | [] => none
  | c :: rest => some (c, { s with commands := rest })

/-- What a step does with a command that spells no operation: an opcode outside the map is recorded as refused
(R74, R216). -/
def refuseCommand (e : DecodeError) (s : State) : Host.Outcome State Fault Refusal :=
  match e with
  | .illegalOpcode op => .next (finish (.refuse (.illegalOpcode op), s))

end Sys2Proof.Machine
end

