-- ==== Sys2Proof/Machine/Step.lean ====
section
/-! DEFINITION. One step: the gate, then the next command issued, decoded and executed to completion
(30_encoding.md R70, 60_exceptions.md R218). -/

namespace Sys2Proof.Machine

/-- One step of the block. With no command issued nothing happens (notes/assumptions/7.md). -/
def step (s : State) : Host.Outcome State Fault Refusal :=
  gate s
    (match fetch s with
    | none => .next s
    | some (c, s1) =>
      match Sys2Proof.decode c with
      | .ok i => exec i s1
      | .error e => refuseCommand e s1)

/-- `s` with the command of a word of spec/opcode_table.json issued as the next one (notes/assumptions/2.md). -/
def State.withFetchWord (s : State) (_nbits w : Nat) : State := s.issue (tableCommand w)

end Sys2Proof.Machine
end

