-- ==== Sys2Proof/Machine/Caller.lean ====
section
/-! DEFINITION. The caller's side of the interface (30_encoding.md R76, R77): lines of commands whose results are
bound to the caller's names, comments and `WAIT`, and the pseudo-instructions. None of it is state of the block
(R76: such names belong to the caller). -/

namespace Sys2Proof.Machine

/-- An operand as the caller writes it: a literal or a name bound to an earlier result (R76). -/
inductive Arg where
  | lit (o : Operand)
  | name (n : String)
  deriving DecidableEq, Repr

/-- A line of the caller's syntax (R76); `binds` are the names on the left of `:=`. -/
inductive Line where
  | comment (text : String)
  | wait
  | command (binds : List String) (op : Op) (args : List Arg)
  deriving DecidableEq, Repr

/-- The caller's names and the values they are bound to, latest first. -/
abbrev Env := List (String × Operand)

/-- The operand a written operand stands for; none for a name that is bound to nothing. -/
def Arg.resolve (env : Env) : Arg → Option Operand
  | .lit o => some o
  | .name n => env.lookup n

/-- The number an operand is, if it is one. -/
def operandNumber? : Operand → Option Rat
  | .byte w => some w.toNat
  | .int i => some i
  | .rat r => some r
  | .bool _ => none
  | .handle h => some h

/-- The operand of a type that is a number (R73); none where the number is no value of the type. A negative rational
is taken as a rate (notes/assumptions/6.md). -/
def operandOfNumber? (ty : OperandType) (r : Rat) : Option Operand :=
  match ty with
  | .byte => if r.den = 1 ∧ 0 ≤ r.num ∧ r.num < 256 then some (.byte (BitVec.ofInt 8 r.num)) else none
  | .int => if r.den = 1 then some (.int r.num) else none
  | .rat => some (.rat r)
  | .bool => none
  | .handle => if r.den = 1 ∧ 0 ≤ r.num then some (.handle r.num.toNat) else none

/-- A value where an operand of type `ty` stands. DESIGN CHOICE (notes/assumptions/14.md): R76 says that a later
operand may be a name, and not what a result of another kind means there; the operand is the value itself, taken in
the type that stands there, and there is no operand where that type does not hold the value. -/
def operandAsType (ty : OperandType) (o : Operand) : Option Operand :=
  if o.type = ty then some o else (operandNumber? o).bind (operandOfNumber? ty)

/-- The operand tuple of the types `tys` that written operands stand for; none where one is a name bound to nothing or
a value its type does not hold, or where their number is another. -/
def resolveOperands (env : Env) : List OperandType → List Arg → Option (List Operand)
  | [], [] => some []
  | ty :: tys, a :: rest =>
    (a.resolve env).bind fun o =>
      (operandAsType ty o).bind fun v => (resolveOperands env tys rest).map (v :: ·)
  | _, _ => none

/-- The command of an operation and an operand tuple, if the tuple is the operation's (R71, R72). -/
def commandOfOperands? (op : Op) (operands : List Operand) : Option Command :=
  if h : operandsFit op.byte operands = true then some ⟨op.byte, operands, h⟩ else none

/-- The command a written line stands for, if its operands are the operation's (R72, R76). -/
def commandOf? (env : Env) (op : Op) (args : List Arg) : Option Command :=
  (resolveOperands env op.operandTypes args).bind (commandOfOperands? op)

/-- A result as values that a name can be bound to and a later operand can be (R72, R76: `SET_RATE` has two). Each
keeps the type of its own kind; `operandAsType` takes it in another where one stands (notes/assumptions/14.md). -/
def valueOperands : Value → List Operand
  | .unit => []
  | .word w => [.byte w]
  | .wordMaxCode w maxCode => [.byte w, .int maxCode]
  | .gain g => [.int g]
  | .rate r => [.rat r]
  | .bool b => [.bool b]
  | .index i => [.int i]
  | .code c => [.int c]
  | .seconds t => [.rat t]
  | .volts v => [.rat v]

/-- Bind the names of a line to its result; an outcome that is no result leaves them bound to nothing (no error
is ever turned into a value, 42_result_decoder.md R134). -/
def bindOutcome (env : Env) (binds : List String) : Option (OpOutcome Value) → Env
  | some (.ok v) => binds.zip (valueOperands v) ++ env
  | _ => env.filter fun p => !binds.contains p.1

/-- Run one line: a comment or `WAIT` is invisible to the block (R76); a command is issued and executed to its
outcome (R70), before any command that is pending in the block (DESIGN CHOICE, notes/assumptions/2.md). A line whose operands make no command is not issued: the caller has no such value
(notes/assumptions/8.md). -/
def runLine (l : Line) (env : Env) (s : State) : Host.Outcome (Env × State) Fault Refusal :=
  match l with
  | .comment _ => .next (env, s)
  | .wait => .next (env, s)
  | .command binds op args =>
    match commandOf? env op args with
    | none => .next (env.filter fun p => !binds.contains p.1, s)
    | some c =>
      match step (s.issue c) with
      | .next t => .next (bindOutcome env binds t.outcomes.head?, t)
      | .fault f => .fault f
      | .refused r => .refused r

/-- Run lines in order (20_memory.md R49), stopping where the block has no step. -/
def runLines : List Line → Env → State → Host.Outcome (Env × State) Fault Refusal
  | [], env, s => .next (env, s)
  | l :: rest, env, s =>
    match runLine l env s with
    | .next (env1, s1) => runLines rest env1 s1
    | .fault f => .fault f
    | .refused r => .refused r

/-- The pseudo-instructions (R77), with the name the result is bound to. -/
inductive Pseudo where
  /-- `w := COMPOSE index, b, rate, gain` -/
  | compose (w : String) (index b rate gain : Arg)
  /-- `READ_VOLTS h`, which binds `v` -/
  | readVolts (h : Arg)
  /-- `v := VOLTS_OF raw, gain, rate` -/
  | voltsOf (v : String) (raw gain rate : Arg)
  deriving DecidableEq, Repr

/-- The expansion of a pseudo-instruction on a block of `count` channels (R77). -/
def Pseudo.expand (count : ChannelCount) : Pseudo → List Line
  | .compose w index b rate gain =>
    [.command ["t1"] .setChan [.lit (.byte 0), index, .lit (.int (channelCountValue count))],
      .command ["t2"] .setCont [.name "t1", b],
      .command ["t3", "mc"] .setRate [.name "t2", rate],
      .command [w] .setGain [.name "t3", gain]]
  | .readVolts h => [.command [] .start [h], .wait, .command ["v"] .getVolts [h]]
  | .voltsOf v raw gain rate =>
    [.command ["t", "mc"] .setRate [.lit (.byte 0), rate],
      .command [v] .scale [raw, gain, .name "mc"]]

end Sys2Proof.Machine
end

