-- ==== Sys2Proof/Machine/Build.lean ====
section
/-! DEFINITION. Building the block and constructing its contexts (70_reset_and_hazards.md R240, R241). -/

namespace Sys2Proof.Machine

/-- Why a build is refused (R240, R241); the block then never exists. The spec names no reason but the
`InvalidArgument` of R241; the others are the model's names for R240's conditions (notes/assumptions/13.md). -/
inductive BuildError where
  /-- `CHANNEL_COUNT` is none of 1, 2, 4. -/
  | channelCount (n : Int)
  /-- `DEV_ADDRESS` is outside 0..127 (R8). -/
  | devAddress (a : Int)
  /-- `CH_CTX_COUNT` is 0. -/
  | noContext
  /-- Context `h` has an invalid construction argument (R241). -/
  | context (h : Nat) (e : OpError)
  deriving DecidableEq, Repr

/-- Construct one context (R241): index, gain, rate, in that order. -/
def constructContext (count : ChannelCount) (a : ContextArgs) : Except OpError Channel :=
  (checkChannel count a.index).bind fun m =>
    (checkGain a.gain).bind fun g =>
      (checkRate a.rate).map fun r =>
        { muxIndex := m, gain := g, sampleRate := r, continuous := a.continuous, phase := .idle }

/-- Construct the contexts from number `h` on (R241). The lowest handle whose arguments are invalid is the one
reported: DESIGN CHOICE (notes/assumptions/13.md). -/
def constructContexts (count : ChannelCount) (h : Nat) : List ContextArgs → Except BuildError (List Channel)
  | [] => .ok []
  | a :: rest =>
    match constructContext count a with
    | .error e => .error (.context h e)
    | .ok c => (constructContexts count (h + 1) rest).map fun cs => c :: cs

/-- Build the block (R240): no bus transaction, nothing issued, `dev.last_config` unwritten. Where several parameters
or contexts are invalid the spec says only that the build is refused; that the channel count, the address, the number
of contexts and then the contexts from handle 0 up are checked in this order, and the first failure is the one
reported, is a DESIGN CHOICE (notes/assumptions/13.md). -/
def build (p : BuildParams) : Except BuildError State :=
  match channelCountOf? p.channelCount with
  | none => .error (.channelCount p.channelCount)
  | some count =>
    if 0 ≤ p.devAddress ∧ p.devAddress ≤ 127 then
      if p.contexts = [] then .error .noContext
      else
        (constructContexts count 0 p.contexts).map fun ch =>
          { dev :=
              { address := BitVec.ofInt 7 p.devAddress, channelCount := count, lastConfig := .unwritten }
            ch := ch
            fault := none
            refused := none
            commands := []
            writeAnswers := []
            readAnswers := []
            txns := []
            outcomes := [] }
    else .error (.devAddress p.devAddress)

end Sys2Proof.Machine
end

