-- ==== Sys2Proof/Safety.lean ====
section
/-! DEFINITION. The terms claims are stated in: a running block, an outcome returned, the invariant of the
reachable states (10_state.md R37), the end of a run (70_reset_and_hazards.md R257), and a valid build. -/

namespace Sys2Proof.Machine

/-- No fault and no refusal is recorded: the gate is open (R218). -/
abbrev State.Running (s : State) : Prop := s.fault = none ∧ s.refused = none

/-- `s` with the outcome `o` returned to the caller and nothing else changed. -/
def State.reply (s : State) (o : OpOutcome Value) : State := { s with outcomes := o :: s.outcomes }

/-- `s` with a fault recorded and returned (R215), and nothing else changed. -/
def State.faultedBy (s : State) (f : Fault) : State :=
  { s with fault := some f, outcomes := .fault f :: s.outcomes }

/-- `s` with a refusal recorded and returned (R216), and nothing else changed. -/
def State.refusedBy (s : State) (r : Refusal) : State :=
  { s with refused := some r, outcomes := .refuse r :: s.outcomes }

/-- `s` after one `BusWrite` of `byte` to the device's address (R41, R42): the answer is used up. -/
def State.wrote (s : State) (byte : Byte) : State :=
  { s with writeAnswers := s.writeAnswers.tail, txns := .write s.dev.address byte :: s.txns }

/-- `s` after one `BusRead` of three bytes with the command byte `cmd` (R41, R42): the answer is used up. -/
def State.didRead (s : State) (cmd : Byte) : State :=
  { s with readAnswers := s.readAnswers.tail, txns := .read s.dev.address cmd 3 :: s.txns }

/-- `s` without its ghost phases (R31). -/
def State.withoutPhases (s : State) : State :=
  { s with ch := s.ch.map fun c => { c with phase := .idle } }

/-- The word a step returned as its result, if it returned one. -/
def resultWord (o : Host.Outcome State Fault Refusal) : Option Byte :=
  match o with
  | .next t =>
    match t.outcomes.head? with
    | some (.ok (.word w)) => some w
    | some (.ok (.wordMaxCode w _)) => some w
    | _ => none
  | _ => none

/-- The gains and their codes, as 30_encoding.md R61 tabulates them. -/
def gainRows : List (Int × Byte) := [(1, 0), (2, 1), (4, 2), (8, 3)]

/-- The rates that are set and decoded, with their resolutions, full-scale codes and rate codes, as
41_config_codec.md R100 tabulates them. -/
def rateRows : List (Rat × Nat × Int × Byte) :=
  [(240, 12, 2047, 0), (60, 14, 8191, 1), (15, 16, 32767, 2)]

/-- The raw code of a ready frame at N bits (R46, R68, R130), in integers. -/
def frameCode (b0 b1 : Byte) (n : Nat) (maxCode : Int) : Int :=
  let u : Int := ((b0.toNat * 256 + b1.toNat) % 2 ^ n : Nat)
  if u > maxCode then u - 2 * (maxCode + 1) else u

/-- A context as R37(b) has it: its mux index exists on the variant, and its rate is one of {15, 60, 240}; its
gain is one of {1, 2, 4, 8} by its type. -/
abbrev Channel.Valid (count : ChannelCount) (c : Channel) : Prop :=
  c.muxIndex.toNat < channelCountValue count ∧ rateSettable c.sampleRate = true

/-- The cached byte as R37(a) has it: `Unwritten`, or bit 7 is 0. -/
abbrev LastConfig.Valid (l : LastConfig) : Prop :=
  match l with
  | .unwritten => True
  | .byte w => w.getLsbD 7 = false

/-- The invariant of every reachable state: R37(a) and (b), at least one context (R7), and no fault and refusal
recorded together (R35, R218). -/
structure State.Inv (s : State) : Prop where
  lastConfig : s.dev.lastConfig.Valid
  channels : ∀ c ∈ s.ch, c.Valid s.dev.channelCount
  someContext : s.ch ≠ []
  oneStop : s.fault = none ∨ s.refused = none

/-- What R257 observes of a run: the outcomes in the order returned, and the final state. -/
def State.observation (s : State) : List (OpOutcome Value) × State := (s.outcomes.reverse, s)

/-- A run ended normally in `s` (R257): every command issued has been executed, and no fault or refusal is
recorded. -/
abbrev State.EndedNormally (s : State) : Prop := s.commands = [] ∧ s.Running

/-- The construction arguments R241 accepts. -/
abbrev ContextArgsValid (count : Int) (a : ContextArgs) : Prop :=
  (0 ≤ a.index ∧ a.index < count) ∧ (a.gain = 1 ∨ a.gain = 2 ∨ a.gain = 4 ∨ a.gain = 8) ∧
    (a.rate = 15 ∨ a.rate = 60 ∨ a.rate = 240)

/-- The parameters R240 and R241 accept. -/
abbrev BuildParamsValid (p : BuildParams) : Prop :=
  (p.channelCount = 1 ∨ p.channelCount = 2 ∨ p.channelCount = 4) ∧
    (0 ≤ p.devAddress ∧ p.devAddress ≤ 127) ∧ p.contexts ≠ [] ∧
      ∀ a ∈ p.contexts, ContextArgsValid p.channelCount a

end Sys2Proof.Machine
end

