-- ==== Sys2Proof/Certificates/Slice0/Obligations.lean ====
section
/-! DEFINITION. The statements for the provers.

Where a statement says what an operation returns or which transaction it performs, it reads it where the model keeps
it: the newest of `outcomes` and of `txns` (notes/assumptions/4.md); and a bus answer is read from `writeAnswers` and
`readAnswers`, or is a free value (notes/assumptions/3.md). That an operation which faults or is refused ends in a
next state that records it, and that every later step answers the recorded reason, is notes/assumptions/9.md.
That a command issued is the next one also where others are pending is notes/assumptions/2.md. -/

section
open Sys2Proof Sys2Proof.Machine

/-! ### Encoding -/

/-- Decode and encode agree on every operation, at every operand value (R71, R72, R73, R75); that this takes in a
negative rate, which R73's type does not hold, is the model's choice (notes/assumptions/6.md). -/
def Obligations.DecodeEncodeRoundTrip : Prop :=
  ∀ i : Instr, Sys2Proof.decode (encode i) = .ok i

/-- A command that decodes is the encoding of the operation it decodes to, which is well formed where the command's
operands are: no two commands spell one operation (R72, R75). And every command decodes whose opcode is in the map, to
an operation of that opcode. That second clause is the model's choice, notes/assumptions/6.md: there is no command with
another operand tuple than its opcode's (DEDUCED from R71 and R75), and a command with a negative rate, which R73's type
does not hold, spells its operation too (DESIGN CHOICE). -/
def Obligations.DecodedCommandIsItsEncoding : Prop :=
  (∀ (c : Command) (i : Instr), Sys2Proof.decode c = .ok i →
      encode i = c ∧ i.wf = c.operands.all Operand.wf) ∧
    ∀ (c : Command) (o : Op), c.op = o.byte → ∃ i : Instr, Sys2Proof.decode c = .ok i ∧ i.op = o

/-- Commands written out from the opcode map and the operand tuples of R72, one of each family, decode to the
operations they stand for. -/
def Obligations.WrittenCommandsDecode : Prop :=
  Sys2Proof.decode ⟨0b00000001, [.byte 0x7C, .int 8], rfl⟩ = .ok (.setGain 0x7C 8) ∧
    Sys2Proof.decode ⟨0b00010000, [.byte 0x0A, .byte 0x28, .byte 0x00, .rat 240], rfl⟩ =
      .ok (.decode 0x0A 0x28 0x00 240) ∧
    Sys2Proof.decode ⟨0b00100000, [.byte 0x1B], rfl⟩ = .ok (.initiate 0x1B) ∧
    Sys2Proof.decode ⟨0b00110000, [.handle 0, .int 8, .rat 15, .bool true], rfl⟩ = .ok (.configure 0 8 15 true) ∧
    Sys2Proof.decode ⟨0b01000000, [.int 1000, .int 1, .int 2047], rfl⟩ = .ok (.scale 1000 1 2047)

/-- The command format (R71): the opcode byte, then the operand tuple the opcode fixes; the high nibble names the
family, and within a family the low nibble names the operation. -/
def Obligations.CommandFormat : Prop :=
  (∀ i : Instr, (encode i).op = i.op.byte ∧ (encode i).operands.map Operand.type = i.op.operandTypes) ∧
    (∀ o ∈ [Op.setGain, .setRate, .setCont, .setChan, .withStart, .getGain, .getRate, .getCont, .getChan],
      Family.ofNibble? (o.byte.extractLsb' 4 4) = some .codec) ∧
    Family.ofNibble? (Op.decode.byte.extractLsb' 4 4) = some .decoder ∧
    (∀ o ∈ [Op.initiate, .getConv, .activeChan, .validateChan],
      Family.ofNibble? (o.byte.extractLsb' 4 4) = some .device) ∧
    (∀ o ∈ [Op.configure, .start, .convTime, .getRaw, .getVolts, .isActive, .chCfg],
      Family.ofNibble? (o.byte.extractLsb' 4 4) = some .channel) ∧
    Family.ofNibble? (Op.scale.byte.extractLsb' 4 4) = some .scaler ∧
    ∀ o o' : Op, o.byte.extractLsb' 4 4 = o'.byte.extractLsb' 4 4 →
      o.byte.extractLsb' 0 4 = o'.byte.extractLsb' 0 4 → o = o'

/-! ### The step and the gate -/

/-- When the next command decodes to an operation, a step of a running block is that operation's meaning, on the
state without the command (R70). -/
def Obligations.StepRunsDecodedOperation : Prop :=
  ∀ (s : State) (c : Command) (rest : List Command) (i : Instr),
    s.Running → s.commands = c :: rest → Sys2Proof.decode c = .ok i →
      step s = exec i { s with commands := rest }

/-- With no command issued a running block stays as it is: the model's choice (notes/assumptions/7.md). -/
def Obligations.IdleStepChangesNothing : Prop :=
  ∀ s : State, s.Running → s.commands = [] → step s = .next s

/-- The gate (R218, R35): with a fault or a refusal recorded no operation has a step, and neither has the block. The
spec says no more than that. That the recorded reason is the answer, and that the fault is it in a state with both
recorded, which no run reaches, is the model's choice: DEDUCED and DESIGN CHOICE, notes/assumptions/9.md. -/
def Obligations.RecordedStopEndsEveryStep : Prop :=
  ∀ (s : State) (i : Instr),
    (∀ f, s.fault = some f → exec i s = .fault f ∧ step s = .fault f) ∧
      ∀ r, s.fault = none → s.refused = some r → exec i s = .refused r ∧ step s = .refused r

/-- Every operation of a running block ends in exactly one outcome, which it returns to the caller; a fault or a
refusal is recorded, and nothing is recorded otherwise (R13, R215, R216, R219). -/
def Obligations.EveryOperationEndsInOneOutcome : Prop :=
  ∀ (s : State) (i : Instr), s.Running →
    ∃ (o : OpOutcome Value) (t : State), exec i s = .next t ∧ t.outcomes = o :: s.outcomes ∧
      t.commands = s.commands ∧ (∀ f, t.fault = some f ↔ o = .fault f) ∧
        ∀ r, t.refused = some r ↔ o = .refuse r

/-- The refusals (R216): an opcode outside the map, a handle outside the contexts, and every use of the 18-bit
resolution as a decode width or a scale; each is recorded, writes nothing else, and no later operation executes;
no operation is refused for another reason. R216 says of the time after it only that no later operation executes: that
the recorded reason is then the answer is the model's choice (DEDUCED, notes/assumptions/9.md). -/
def Obligations.RefusalsAreRecordedAndStop : Prop :=
  (∀ (s : State) (c : Command), s.Running →
      c.op ∉ ([0x01, 0x02, 0x03, 0x04, 0x05, 0x06, 0x07, 0x08, 0x09, 0x10, 0x20, 0x21, 0x22, 0x23, 0x30, 0x31,
        0x32, 0x33, 0x34, 0x35, 0x36, 0x40] : List Byte) →
      step (s.issue c) = .next (s.refusedBy (.illegalOpcode c.op))) ∧
    (∀ (s : State) (h : Nat) (gain : Int) (rate : Rat) (b : Bool), s.Running → s.ch.length ≤ h →
      ∀ i ∈ [Instr.configure h gain rate b, .start h, .convTime h, .getRaw h, .getVolts h, .isActive h, .chCfg h],
        exec i s = .next (s.refusedBy (.badHandle h))) ∧
    (∀ (s : State) (b0 b1 b2 : Byte) (raw gain : Int), s.Running →
      ∀ i ∈ [Instr.decode b0 b1 b2 (15 / 4), .getConv (15 / 4), .scale raw gain 131071],
        exec i s = .next (s.refusedBy .unsupported18Bit)) ∧
    (∀ (s : State) (r : Refusal) (i : Instr), s.fault = none →
      exec i (s.refusedBy r) = .refused r ∧ step (s.refusedBy r) = .refused r) ∧
    ∀ (s t : State) (i : Instr) (r : Refusal), exec i s = .next t → t.refused = some r →
      r = .unsupported18Bit ∨ ∃ h, r = .badHandle h ∧ s.ch.length ≤ h

/-- The fault (R215): with `dev.last_config` unwritten the five readers record it, with no transaction and nothing
else written; no other operation, and no other state, gives it; no later operation executes, and a run that is in
the faulted state has not ended normally. R215 says of the time after it only that no later operation executes: that
the recorded reason is then the answer (DEDUCED), and that it is the fault also where a refusal is recorded (DESIGN
CHOICE), is the model's choice, notes/assumptions/9.md. A context's rate is one of the settable ones, as
`StepKeepsInvariant` has it in every reachable state. -/
def Obligations.UnwrittenCacheFaults : Prop :=
  (∀ (s : State) (rate : Rat), s.Running → s.dev.lastConfig = .unwritten →
      (rate = 15 ∨ rate = 60 ∨ rate = 240) →
      ∀ i ∈ [Instr.getConv rate, .activeChan], exec i s = .next (s.faultedBy .unwrittenLastConfig)) ∧
    (∀ (s : State) (h : Nat) (c : Channel), s.Running → s.dev.lastConfig = .unwritten →
      s.ch[h]? = some c → rateSettable c.sampleRate = true →
      ∀ i ∈ [Instr.getRaw h, .getVolts h, .isActive h],
        exec i s = .next (s.faultedBy .unwrittenLastConfig)) ∧
    (∀ (s t : State) (i : Instr) (f : Fault), exec i s = .next t → t.fault = some f →
      s.dev.lastConfig = .unwritten ∧ t = s.faultedBy .unwrittenLastConfig ∧
        ((∃ rate, i = .getConv rate) ∨ i = .activeChan ∨
          ∃ h, i = .getRaw h ∨ i = .getVolts h ∨ i = .isActive h)) ∧
    ∀ (s : State) (f : Fault) (i : Instr),
      exec i (s.faultedBy f) = .fault f ∧ step (s.faultedBy f) = .fault f ∧ ¬(s.faultedBy f).EndedNormally

/-! ### Building the block and the invariant -/

/-- Building the block (R240): with valid parameters and construction arguments they are in their fields, the cache
is unwritten, every phase is idle, no fault and no refusal is recorded and no bus transaction was performed;
otherwise the build is refused, and the block never exists. -/
def Obligations.BuildGivesResetValuesOrIsRefused : Prop :=
  (∀ p : BuildParams, BuildParamsValid p →
    ∃ s : State, build p = .ok s ∧ (s.dev.address.toNat : Int) = p.devAddress ∧
      (channelCountValue s.dev.channelCount : Int) = p.channelCount ∧ s.dev.lastConfig = .unwritten ∧
      s.fault = none ∧ s.refused = none ∧ s.txns = [] ∧ s.ch.length = p.contexts.length ∧
      ∀ (h : Nat) (a : ContextArgs), p.contexts[h]? = some a →
        ∃ c : Channel, s.ch[h]? = some c ∧ (c.muxIndex.toNat : Int) = a.index ∧
          (gainValue c.gain : Int) = a.gain ∧ rateSps c.sampleRate = a.rate ∧
          c.continuous = a.continuous ∧ c.phase = .idle) ∧
    ∀ p : BuildParams, ¬BuildParamsValid p → ∃ e : BuildError, build p = .error e

/-- Constructing one context (R241): index, gain and rate are checked in that order, the first that fails is the
`InvalidArgument`; with all valid, every field is written; and an `InvalidArgument` for any context refuses the
build. -/
def Obligations.ContextConstruction : Prop :=
  ∀ (count : ChannelCount) (a : ContextArgs),
    (¬(0 ≤ a.index ∧ a.index < channelCountValue count) →
      constructContext count a = .error (.invalidArgument .channel (.int a.index))) ∧
    ((0 ≤ a.index ∧ a.index < channelCountValue count) → a.gain ∉ ([1, 2, 4, 8] : List Int) →
      constructContext count a = .error (.invalidArgument .gain (.int a.gain))) ∧
    ((0 ≤ a.index ∧ a.index < channelCountValue count) → a.gain ∈ ([1, 2, 4, 8] : List Int) →
      a.rate ∉ ([15, 60, 240] : List Rat) →
      constructContext count a = .error (.invalidArgument .rate (.rat a.rate))) ∧
    ((0 ≤ a.index ∧ a.index < channelCountValue count) → a.gain ∈ ([1, 2, 4, 8] : List Int) →
      a.rate ∈ ([15, 60, 240] : List Rat) →
      ∃ c : Channel, constructContext count a = .ok c ∧ (c.muxIndex.toNat : Int) = a.index ∧
        (gainValue c.gain : Int) = a.gain ∧ rateSps c.sampleRate = a.rate ∧
        c.continuous = a.continuous ∧ c.phase = .idle) ∧
    ∀ (p : BuildParams) (e : OpError), p.channelCount = channelCountValue count → a ∈ p.contexts →
      constructContext count a = .error e → ∃ e' : BuildError, build p = .error e'

/-- Every built block meets the invariant (R37, R240, R241). -/
def Obligations.BuildEstablishesInvariant : Prop :=
  ∀ (p : BuildParams) (s : State), build p = .ok s → s.Inv ∧ s.Running

/-- The reset state is the build of the model's parameters, runs, and meets the invariant; the parameters are the
model's choice (notes/assumptions/1.md). -/
def Obligations.ResetIsBuiltAndMeetsInvariant : Prop :=
  build Config.build = .ok State.reset ∧ State.reset.Running ∧ State.reset.Inv

/-- Every step keeps the invariant of R37(a) and (b), from every state that meets it: the cached byte has bit 7
clear, every context's mux index exists on the variant, and no context ever holds 3.75 sps (R29). -/
def Obligations.StepKeepsInvariant : Prop :=
  ∀ s t : State, s.Inv → step s = .next t → t.Inv

/-- No step changes the bus address, the channel count, the number of contexts or any context's mux index (R21,
R22, R26). -/
def Obligations.StepKeepsBuildConstants : Prop :=
  ∀ s t : State, step s = .next t →
    t.dev.address = s.dev.address ∧ t.dev.channelCount = s.dev.channelCount ∧
      t.ch.map Channel.muxIndex = s.ch.map Channel.muxIndex

/-- The cached byte changes only by an `INITIATE`, alone or inside `START`, whose write the oracle answered `Ok`,
and then it is the word without the start bit (R23, R53). -/
def Obligations.CacheIsWrittenOnlyBySuccessfulInitiate : Prop :=
  ∀ (s t : State) (i : Instr), exec i s = .next t → t.dev.lastConfig ≠ s.dev.lastConfig →
    s.nextWriteAnswer = .ok ∧ ∃ w : Byte, t.dev.lastConfig = .byte (w &&& 0x7F) ∧
      (i = .initiate w ∨ ∃ (h : Nat) (c : Channel), i = .start h ∧ s.ch[h]? = some c ∧ w = configByte c)

/-- The bus transactions (R41, R154): an operation issues none, or one write of one byte with the start bit to the
device's address, from `INITIATE` alone or inside `START`, or one read of three bytes with the cached byte as its
command byte, from `GET_CONV` alone or inside `GET_RAW` and `GET_VOLTS`; and it uses up that transaction's answer
and no other. -/
def Obligations.AtMostOneTransaction : Prop :=
  ∀ (s t : State) (i : Instr), exec i s = .next t →
    (t.txns = s.txns ∧ t.writeAnswers = s.writeAnswers ∧ t.readAnswers = s.readAnswers ∧
        (∀ w, i ≠ .initiate w) ∧ ∀ h, h < s.ch.length → i ≠ .start h) ∨
      (t.txns = s.txns ∧ t.writeAnswers = s.writeAnswers ∧ t.readAnswers = s.readAnswers ∧
        ∃ h, i = .start h ∧ s.ch.length ≤ h) ∨
      (t.writeAnswers = s.writeAnswers.tail ∧ t.readAnswers = s.readAnswers ∧
        ∃ w : Byte, t.txns = .write s.dev.address (w ||| 0x80) :: s.txns ∧
          (i = .initiate w ∨
            ∃ (h : Nat) (c : Channel), i = .start h ∧ s.ch[h]? = some c ∧ w = configByte c)) ∨
      (t.writeAnswers = s.writeAnswers ∧ t.readAnswers = s.readAnswers.tail ∧
        ∃ cmd : Byte, s.dev.lastConfig = .byte cmd ∧ t.txns = .read s.dev.address cmd 3 :: s.txns ∧
          ((∃ rate, i = .getConv rate) ∨ ∃ h, i = .getRaw h ∨ i = .getVolts h))

/-- A read answer is a result frame exactly when the transport delivered three bytes (R44, D31). -/
def Obligations.FrameIsExactlyThreeBytes : Prop :=
  ∀ (a : ReadAnswer) (f : Frame), readFrame? a = some f ↔ a = .bytes [f.b0, f.b1, f.b2]

/-! ### Errors and frames -/

/-- Errors are precise (R219): the state after an architected error is the state before the operation, but for the
outcome returned and the bus transaction that was answered. -/
def Obligations.ErrorsLeaveStateUnchanged : Prop :=
  ∀ (s t : State) (i : Instr) (e : OpError), exec i s = .next t → t.outcomes = .raise e :: s.outcomes →
    t.dev = s.dev ∧ t.ch = s.ch ∧ t.fault = s.fault ∧ t.refused = s.refused ∧ t.commands = s.commands

/-- `InvalidArgument` is raised before any state mutation or bus I/O (R211): nothing but the outcome is new. -/
def Obligations.InvalidArgumentBeforeAnyEffect : Prop :=
  ∀ (s t : State) (i : Instr) (field : ArgField) (v : ArgValue), exec i s = .next t →
    t.outcomes = .raise (.invalidArgument field v) :: s.outcomes →
      t = s.reply (.raise (.invalidArgument field v))

/-- The numeric codes of outcomes and of their info fields (R214). -/
def Obligations.OutcomeCodes : Prop :=
  (∀ v : Value, outcomeCode (.ok v : OpOutcome Value) = some 0) ∧
    (∀ (field : ArgField) (v : ArgValue),
      outcomeCode (.raise (.invalidArgument field v) : OpOutcome Value) = some 1) ∧
    outcomeCode (.raise .conversionNotReady : OpOutcome Value) = some 2 ∧
    (∀ dir : Direction, outcomeCode (.raise (.busError dir) : OpOutcome Value) = some 3) ∧
    (∀ v : ArgValue,
      errorInfoCode (.invalidArgument .gain v) = some 1 ∧ errorInfoCode (.invalidArgument .rate v) = some 2 ∧
        errorInfoCode (.invalidArgument .channel v) = some 3 ∧
        errorInfoCode (.invalidArgument .count v) = some 4 ∧
        errorInfoCode (.invalidArgument .maxCode v) = some 5) ∧
    errorInfoCode .conversionNotReady = none ∧ errorInfoCode (.busError .write) = some 1 ∧
    errorInfoCode (.busError .read) = some 2

/-- The frame of the operations that write no state and touch no bus (R41: codec, decoder, scaler; R154:
`ACTIVE_CHAN`, `VALIDATE_CHAN`; `CONV_TIME`, `IS_ACTIVE`, `CH_CFG`): the Device, every context, the commands, the
answers and the transactions are unchanged. -/
def Obligations.PureOperationsFrame : Prop :=
  ∀ (s t : State) (w b0 b1 b2 : Byte) (gain index count raw maxCode : Int) (rate : Rat) (b : Bool) (h : Nat),
    ∀ i ∈ [Instr.setGain w gain, .setRate w rate, .setCont w b, .setChan w index count, .withStart w, .getGain w,
        .getRate w, .getCont w, .getChan w, .decode b0 b1 b2 rate, .activeChan, .validateChan index, .convTime h,
        .isActive h, .chCfg h, .scale raw gain maxCode],
      exec i s = .next t →
        t.dev = s.dev ∧ t.ch = s.ch ∧ t.commands = s.commands ∧ t.writeAnswers = s.writeAnswers ∧
          t.readAnswers = s.readAnswers ∧ t.txns = s.txns

/-- The frame of the contexts (R25 to R31): `INITIATE` and `GET_CONV` change none; `CONFIGURE h` may change the
gain, the rate and the mode of context `h`; `START h`, `GET_RAW h` and `GET_VOLTS h` may change its phase; every
other context, and every other field, stays. -/
def Obligations.ContextsFrame : Prop :=
  (∀ (s t : State) (w : Byte) (rate : Rat), ∀ i ∈ [Instr.initiate w, .getConv rate],
      exec i s = .next t → t.ch = s.ch) ∧
    (∀ (s t : State) (h : Nat) (gain : Int) (rate : Rat) (b : Bool),
      ∀ i ∈ [Instr.configure h gain rate b, .start h, .getRaw h, .getVolts h],
        exec i s = .next t → t.ch.length = s.ch.length ∧ ∀ h', h' ≠ h → t.ch[h']? = s.ch[h']?) ∧
    (∀ (s t : State) (h : Nat) (gain : Int) (rate : Rat) (b : Bool) (c : Channel),
      exec (.configure h gain rate b) s = .next t → s.ch[h]? = some c →
        t.dev = s.dev ∧ ∃ c', t.ch[h]? = some c' ∧ c'.muxIndex = c.muxIndex ∧ c'.phase = c.phase) ∧
    ∀ (s t : State) (h : Nat) (c : Channel), ∀ i ∈ [Instr.start h, .getRaw h, .getVolts h],
      exec i s = .next t → s.ch[h]? = some c →
        ∃ c', t.ch[h]? = some c' ∧ c'.muxIndex = c.muxIndex ∧ c'.gain = c.gain ∧
          c'.sampleRate = c.sampleRate ∧ c'.continuous = c.continuous

/-- The phase is a ghost (R31): in two states that differ in phases alone, an operation returns the same outcome
and has the same effect but for phases. -/
def Obligations.PhasesInfluenceNothing : Prop :=
  ∀ (s s' t : State) (i : Instr), s.withoutPhases = s'.withoutPhases → exec i s = .next t →
    ∃ t' : State, exec i s' = .next t' ∧ t.withoutPhases = t'.withoutPhases

/-! ### The configuration codec -/

/-- The field codes (R61, R63) and the rate table (R100). -/
def Obligations.FieldCodesAndRateTable : Prop :=
  (gainCode .x1 = 0b00 ∧ gainCode .x2 = 0b01 ∧ gainCode .x4 = 0b10 ∧ gainCode .x8 = 0b11) ∧
    (∀ g : Gain, gainOfCode (gainCode g) = g ∧ gainValue g = 2 ^ (gainCode g).toNat) ∧
    (contBit true = 1 ∧ contBit false = 0 ∧ contOf 1 = true ∧ contOf 0 = false) ∧
    (rateSps .sps240 = 240 ∧ rateCode .sps240 = 0b00 ∧ rateRes .sps240 = 12 ∧ rateMaxCode .sps240 = 2047) ∧
    (rateSps .sps60 = 60 ∧ rateCode .sps60 = 0b01 ∧ rateRes .sps60 = 14 ∧ rateMaxCode .sps60 = 8191) ∧
    (rateSps .sps15 = 15 ∧ rateCode .sps15 = 0b10 ∧ rateRes .sps15 = 16 ∧ rateMaxCode .sps15 = 32767) ∧
    (rateSps .sps3p75 = 15 / 4 ∧ rateCode .sps3p75 = 0b11 ∧ rateRes .sps3p75 = 18 ∧
      rateMaxCode .sps3p75 = 131071) ∧
    ∀ r : Rate, rateOfCode (rateCode r) = r ∧ rateMaxCode r = 2 ^ (rateRes r - 1) - 1 ∧
      (rateSettable r = true ↔ r ≠ .sps3p75)

/-- Composition (30_encoding.md, R66, a sentence the spec derives): the OR of the four fields is their sum, with
bit 7 clear, and is what the four field encoders give from 0x00 in any order. -/
def Obligations.CompositionIsSumOfFields : Prop :=
  ∀ (m : MuxCode) (b : Bool) (r : Rate) (g : Gain),
    (compose m b r g).toNat =
        m.toNat * 32 + (contBit b).toNat * 16 + (rateCode r).toNat * 4 + (gainCode g).toNat ∧
      (compose m b r g).getLsbD 7 = false ∧
      ∀ l : List (Byte → Byte),
        l.Perm [fun w => putMux w m, fun w => putCont w b, fun w => putRate w r, fun w => putGain w g] →
          l.foldl (fun w f => f w) 0 = compose m b r g

/-- `SET_GAIN` (R101). -/
def Obligations.SetGainResult : Prop :=
  ∀ (s : State) (w : Byte), s.Running →
    (∀ row ∈ gainRows, (encode (.setGain w row.1)).op = 0x01 ∧
      exec (.setGain w row.1) s = .next (s.reply (.ok (.word ((w &&& (0xFC : Byte)) ||| row.2))))) ∧
    ∀ gain : Int, gain ∉ ([1, 2, 4, 8] : List Int) →
      exec (.setGain w gain) s = .next (s.reply (.raise (.invalidArgument .gain (.int gain))))

/-- `SET_RATE` (R102), with the full-scale code. -/
def Obligations.SetRateResult : Prop :=
  ∀ (s : State) (w : Byte), s.Running →
    (∀ row ∈ rateRows, (encode (.setRate w row.1)).op = 0x02 ∧
      exec (.setRate w row.1) s =
        .next (s.reply (.ok (.wordMaxCode ((w &&& (0xF3 : Byte)) ||| (row.2.2.2 <<< 2)) row.2.2.1)))) ∧
    ∀ rate : Rat, rate ∉ ([15, 60, 240] : List Rat) →
      exec (.setRate w rate) s = .next (s.reply (.raise (.invalidArgument .rate (.rat rate))))

/-- `SET_CONT` (R103). -/
def Obligations.SetContResult : Prop :=
  ∀ (s : State) (w : Byte), s.Running →
    (encode (.setCont w true)).op = 0x03 ∧ (encode (.setCont w false)).op = 0x03 ∧
      exec (.setCont w true) s = .next (s.reply (.ok (.word ((w &&& (0xEF : Byte)) ||| 0x10)))) ∧
      exec (.setCont w false) s = .next (s.reply (.ok (.word (w &&& 0xEF))))

/-- `SET_CHAN` (R104): the count is checked first. -/
def Obligations.SetChanResult : Prop :=
  ∀ (s : State) (w : Byte) (index count : Int), s.Running →
    (encode (.setChan w index count)).op = 0x04 ∧
    (count ∉ ([1, 2, 4] : List Int) →
      exec (.setChan w index count) s = .next (s.reply (.raise (.invalidArgument .count (.int count))))) ∧
    (count ∈ ([1, 2, 4] : List Int) → ¬(0 ≤ index ∧ index < count) →
      exec (.setChan w index count) s = .next (s.reply (.raise (.invalidArgument .channel (.int index))))) ∧
    (count ∈ ([1, 2, 4] : List Int) → (0 ≤ index ∧ index < count) →
      exec (.setChan w index count) s =
        .next (s.reply (.ok (.word ((w &&& (0x9F : Byte)) ||| BitVec.ofInt 8 (index * 32))))))

/-- `WITH_START` (R105). -/
def Obligations.WithStartResult : Prop :=
  ∀ (s : State) (w : Byte), s.Running →
    (encode (.withStart w)).op = 0x05 ∧ exec (.withStart w) s = .next (s.reply (.ok (.word (w ||| 0x80))))

/-- The field decoders `GET_GAIN`, `GET_RATE`, `GET_CONT` and `GET_CHAN` (R106 to R109), on every word. -/
def Obligations.ReadBackResults : Prop :=
  ∀ (s : State) (w : Byte), s.Running →
    ((encode (.getGain w)).op = 0x06 ∧ (encode (.getRate w)).op = 0x07 ∧ (encode (.getCont w)).op = 0x08 ∧
      (encode (.getChan w)).op = 0x09) ∧
    exec (.getGain w) s = .next (s.reply (.ok (.gain (2 ^ (w.toNat % 4))))) ∧
    (∀ row ∈ ([(0, 240), (1, 60), (2, 15), (3, 15 / 4)] : List (Nat × Rat)), w.toNat / 4 % 4 = row.1 →
      exec (.getRate w) s = .next (s.reply (.ok (.rate row.2)))) ∧
    exec (.getCont w) s = .next (s.reply (.ok (.bool (decide (w.toNat / 16 % 2 = 1))))) ∧
    exec (.getChan w) s = .next (s.reply (.ok (.index (w.toNat / 32 % 4 : Nat))))

/-- Field isolation (R110): a field encoder changes no bit outside its field, and what it writes into the field does
not depend on the word it was given. -/
def Obligations.EncodersAreFieldIsolated : Prop :=
  ∀ (s : State) (w v : Byte) (gain index count : Int) (rate : Rat) (b : Bool),
    ∀ p ∈ [(Instr.setGain w gain, Instr.setGain v gain, (0x03 : Byte)),
        (.setRate w rate, .setRate v rate, 0x0C), (.setCont w b, .setCont v b, 0x10),
        (.setChan w index count, .setChan v index count, 0x60), (.withStart w, .withStart v, 0x80)],
      ∀ w' : Byte, resultWord (exec p.1 s) = some w' →
        w' &&& ~~~p.2.2 = w &&& ~~~p.2.2 ∧
          ∃ v' : Byte, resultWord (exec p.2.1 s) = some v' ∧ v' &&& p.2.2 = w' &&& p.2.2

/-- Round trips (R111, which the spec derives): what an encoder wrote is what the field decoder reads, the other
fields read as before, and writing back what was read changes nothing. -/
def Obligations.EncodersRoundTrip : Prop :=
  ∀ (s : State) (w w' : Byte) (gain index count : Int) (rate : Rat) (b : Bool), s.Running →
    (resultWord (exec (.setGain w gain) s) = some w' →
      exec (.getGain w') s = .next (s.reply (.ok (.gain gain))) ∧
        contField w' = contField w ∧ rateField w' = rateField w ∧ muxField w' = muxField w) ∧
    (resultWord (exec (.setRate w rate) s) = some w' →
      exec (.getRate w') s = .next (s.reply (.ok (.rate rate))) ∧
        gainField w' = gainField w ∧ contField w' = contField w ∧ muxField w' = muxField w) ∧
    (resultWord (exec (.setCont w b) s) = some w' →
      exec (.getCont w') s = .next (s.reply (.ok (.bool b))) ∧
        gainField w' = gainField w ∧ rateField w' = rateField w ∧ muxField w' = muxField w) ∧
    (resultWord (exec (.setChan w index count) s) = some w' →
      exec (.getChan w') s = .next (s.reply (.ok (.index index))) ∧
        gainField w' = gainField w ∧ rateField w' = rateField w ∧ contField w' = contField w) ∧
    resultWord (exec (.setGain w (gainValue (gainField w))) s) = some w ∧
    resultWord (exec (.setCont w (contField w)) s) = some w ∧
    resultWord (exec (.setChan w (muxField w).toNat 4) s) = some w ∧
    (w.extractLsb' 2 2 ≠ 0b11 → resultWord (exec (.setRate w (rateSps (rateField w))) s) = some w)

/-- Any two encoders of different fields commute (R111, which the spec derives). -/
def Obligations.EncodersCommute : Prop :=
  ∀ (s : State) (w : Byte) (gain index count : Int) (rate : Rat) (b : Bool),
    ∀ p ∈ ([(fun v => .setGain v gain, fun v => .setRate v rate),
        (fun v => .setGain v gain, fun v => .setCont v b),
        (fun v => .setGain v gain, fun v => .setChan v index count),
        (fun v => .setRate v rate, fun v => .setCont v b),
        (fun v => .setRate v rate, fun v => .setChan v index count),
        (fun v => .setCont v b, fun v => .setChan v index count)] :
        List ((Byte → Instr) × (Byte → Instr))),
      ∀ x y z : Byte, resultWord (exec (p.1 w) s) = some x → resultWord (exec (p.2 x) s) = some y →
        resultWord (exec (p.2 w) s) = some z → resultWord (exec (p.1 z) s) = some y

/-! ### The result decoder -/

/-- `DECODE` (R130): the 18-bit refusal, then the rate, then readiness, then the reconstruction. -/
def Obligations.DecodeResult : Prop :=
  ∀ (s : State) (b0 b1 b2 : Byte), s.Running →
    (∀ rate : Rat, (encode (.decode b0 b1 b2 rate)).op = 0x10) ∧
    exec (.decode b0 b1 b2 (15 / 4)) s = .next (s.refusedBy .unsupported18Bit) ∧
    (∀ rate : Rat, rate ∉ ([15 / 4, 15, 60, 240] : List Rat) →
      exec (.decode b0 b1 b2 rate) s = .next (s.reply (.raise (.invalidArgument .rate (.rat rate))))) ∧
    ∀ row ∈ rateRows,
      (b2.getLsbD 7 = true → exec (.decode b0 b1 b2 row.1) s = .next (s.reply (.raise .conversionNotReady))) ∧
      (b2.getLsbD 7 = false →
        exec (.decode b0 b1 b2 row.1) s = .next (s.reply (.ok (.code (frameCode b0 b1 row.2.1 row.2.2.1)))))

/-- The reconstruction is two's-complement sign extension of the low N bits of the 16-bit word (R131, a sentence the
spec derives). -/
def Obligations.DecodeIsSignExtension : Prop :=
  ∀ (s : State) (b0 b1 b2 : Byte), s.Running → b2.getLsbD 7 = false →
    exec (.decode b0 b1 b2 240) s = .next (s.reply (.ok (.code ((b0 ++ b1).setWidth 12).toInt))) ∧
      exec (.decode b0 b1 b2 60) s = .next (s.reply (.ok (.code ((b0 ++ b1).setWidth 14).toInt))) ∧
      exec (.decode b0 b1 b2 15) s = .next (s.reply (.ok (.code (b0 ++ b1).toInt)))

/-- Range and bijection (R132, which the spec derives): at each supported resolution every decoded code lies in
`-(mc+1) .. mc`, and every code of that range is decoded from exactly one value of the N-bit data field; the map is
the identity up to `mc` and subtracts `2^N` above it. -/
def Obligations.DecodeIsBijection : Prop :=
  ∀ s : State, s.Running → ∀ row ∈ rateRows,
    (∀ (b0 b1 b2 : Byte) (t : State) (c : Int), exec (.decode b0 b1 b2 row.1) s = .next t →
      t.outcomes = .ok (.code c) :: s.outcomes → -(row.2.2.1 + 1) ≤ c ∧ c ≤ row.2.2.1) ∧
    (∀ (b0 b1 : Byte) (u : Int), u = b0.toNat * 256 + b1.toNat → u < 2 ^ row.2.1 →
      (u ≤ row.2.2.1 → exec (.decode b0 b1 0 row.1) s = .next (s.reply (.ok (.code u)))) ∧
        (row.2.2.1 < u → exec (.decode b0 b1 0 row.1) s = .next (s.reply (.ok (.code (u - 2 ^ row.2.1)))))) ∧
    ∀ c : Int, -(row.2.2.1 + 1) ≤ c → c ≤ row.2.2.1 →
      ∃ b0 b1 : Byte, b0.toNat * 256 + b1.toNat < 2 ^ row.2.1 ∧
        exec (.decode b0 b1 0 row.1) s = .next (s.reply (.ok (.code c))) ∧
        ∀ a0 a1 : Byte, a0.toNat * 256 + a1.toNat < 2 ^ row.2.1 →
          exec (.decode a0 a1 0 row.1) s = .next (s.reply (.ok (.code c))) → a0 = b0 ∧ a1 = b1

/-- `ConversionNotReady` has one cause (R212, R134): bit 7 of the status byte of the frame decoded. The operation
changes no state of the block and returns no code. -/
def Obligations.NotReadyComesFromReadyBit : Prop :=
  ∀ (s t : State) (i : Instr), exec i s = .next t → t.outcomes = .raise .conversionNotReady :: s.outcomes →
    t.dev = s.dev ∧ t.ch = s.ch ∧
      ∃ b0 b1 b2 : Byte, b2.getLsbD 7 = true ∧
        ((∃ rate, i = .decode b0 b1 b2 rate) ∨
          s.nextReadAnswer = .bytes [b0, b1, b2] ∧
            ((∃ rate, i = .getConv rate) ∨ ∃ h, i = .getRaw h ∨ i = .getVolts h))

/-- The decoder reads only the ready bit and the low N bits of the data word (R135, which the spec derives): frames
that agree on these are decoded to one outcome, in any two running states. -/
def Obligations.DecodeReadsOnlyReadyBitAndField : Prop :=
  ∀ (s s' : State) (a0 a1 a2 b0 b1 b2 : Byte), s.Running → s'.Running → ∀ row ∈ rateRows,
    a2.getLsbD 7 = b2.getLsbD 7 →
    (a0.toNat * 256 + a1.toNat) % 2 ^ row.2.1 = (b0.toNat * 256 + b1.toNat) % 2 ^ row.2.1 →
      ∃ o : OpOutcome Value, exec (.decode a0 a1 a2 row.1) s = .next (s.reply o) ∧
        exec (.decode b0 b1 b2 row.1) s' = .next (s'.reply o)

/-! ### Device operations -/

/-- `INITIATE` (R150): the byte sent has the start bit, the byte cached has not; a failed write keeps the cache. -/
def Obligations.InitiateResult : Prop :=
  ∀ (s : State) (w : Byte), s.Running →
    (encode (.initiate w)).op = 0x20 ∧
    (s.nextWriteAnswer = .ok →
      exec (.initiate w) s =
        .next (({ s with dev := { s.dev with lastConfig := .byte (w &&& 0x7F) } }.wrote (w ||| 0x80)).reply
          (.ok .unit))) ∧
    (s.nextWriteAnswer = .transportError →
      exec (.initiate w) s = .next ((s.wrote (w ||| 0x80)).reply (.raise (.busError .write))))

/-- `GET_CONV` (R151): the 18-bit refusal, the rate, the unwritten cache, the one read, the decoder. -/
def Obligations.GetConvResult : Prop :=
  ∀ s : State, s.Running →
    (∀ rate : Rat, (encode (.getConv rate)).op = 0x21) ∧
    exec (.getConv (15 / 4)) s = .next (s.refusedBy .unsupported18Bit) ∧
    (∀ rate : Rat, rate ∉ ([15 / 4, 15, 60, 240] : List Rat) →
      exec (.getConv rate) s = .next (s.reply (.raise (.invalidArgument .rate (.rat rate))))) ∧
    ∀ row ∈ rateRows,
      (s.dev.lastConfig = .unwritten → exec (.getConv row.1) s = .next (s.faultedBy .unwrittenLastConfig)) ∧
      ∀ cmd : Byte, s.dev.lastConfig = .byte cmd →
        ((∀ b0 b1 b2 : Byte, s.nextReadAnswer ≠ .bytes [b0, b1, b2]) →
          exec (.getConv row.1) s = .next ((s.didRead cmd).reply (.raise (.busError .read)))) ∧
        ∀ b0 b1 b2 : Byte, s.nextReadAnswer = .bytes [b0, b1, b2] →
          (b2.getLsbD 7 = true →
            exec (.getConv row.1) s = .next ((s.didRead cmd).reply (.raise .conversionNotReady))) ∧
          (b2.getLsbD 7 = false →
            exec (.getConv row.1) s =
              .next ((s.didRead cmd).reply (.ok (.code (frameCode b0 b1 row.2.1 row.2.2.1)))))

/-- `ACTIVE_CHAN` (R152). -/
def Obligations.ActiveChanResult : Prop :=
  ∀ s : State, s.Running →
    (encode .activeChan).op = 0x22 ∧
    (s.dev.lastConfig = .unwritten → exec .activeChan s = .next (s.faultedBy .unwrittenLastConfig)) ∧
    ∀ w : Byte, s.dev.lastConfig = .byte w →
      exec .activeChan s = .next (s.reply (.ok (.index (w.toNat / 32 % 4 : Nat))))

/-- `VALIDATE_CHAN` (R153). -/
def Obligations.ValidateChanResult : Prop :=
  ∀ (s : State) (index : Int), s.Running →
    (encode (.validateChan index)).op = 0x23 ∧
    ((0 ≤ index ∧ index < channelCountValue s.dev.channelCount) →
      exec (.validateChan index) s = .next (s.reply (.ok .unit))) ∧
    (¬(0 ≤ index ∧ index < channelCountValue s.dev.channelCount) →
      exec (.validateChan index) s = .next (s.reply (.raise (.invalidArgument .channel (.int index)))))

/-! ### Channel operations -/

/-- `CONFIGURE` (R170): gain first, then rate; the three fields change together or not at all. -/
def Obligations.ConfigureResult : Prop :=
  ∀ (s : State) (h : Nat) (c : Channel) (gain : Int) (rate : Rat) (b : Bool), s.Running → s.ch[h]? = some c →
    (encode (.configure h gain rate b)).op = 0x30 ∧
    (gain ∉ ([1, 2, 4, 8] : List Int) →
      exec (.configure h gain rate b) s = .next (s.reply (.raise (.invalidArgument .gain (.int gain))))) ∧
    (gain ∈ ([1, 2, 4, 8] : List Int) → rate ∉ ([15, 60, 240] : List Rat) →
      exec (.configure h gain rate b) s = .next (s.reply (.raise (.invalidArgument .rate (.rat rate))))) ∧
    ∀ (g : Gain) (r : Rate), (gainValue g : Int) = gain → rateSps r = rate → rateSettable r = true →
      exec (.configure h gain rate b) s =
        .next ({ s with ch := s.ch.set h { c with gain := g, sampleRate := r, continuous := b } }.reply
          (.ok .unit))

/-- `START` (R171): `INITIATE` of the context's config byte, then the phase. -/
def Obligations.StartResult : Prop :=
  ∀ (s : State) (h : Nat) (c : Channel), s.Running → s.ch[h]? = some c →
    (encode (.start h)).op = 0x31 ∧
    (s.nextWriteAnswer = .ok →
      exec (.start h) s =
        .next (({ s with dev := { s.dev with lastConfig := .byte (configByte c) }
                         ch := s.ch.set h { c with phase := .awaiting } }.wrote
            (configByte c ||| 0x80)).reply (.ok .unit))) ∧
    (s.nextWriteAnswer = .transportError →
      exec (.start h) s = .next ((s.wrote (configByte c ||| 0x80)).reply (.raise (.busError .write))))

/-- `CONV_TIME` (R172) and `CH_CFG` (R176): read-only, and they never fail. -/
def Obligations.ConvTimeAndChCfgResults : Prop :=
  ∀ (s : State) (h : Nat) (c : Channel), s.Running → s.ch[h]? = some c →
    (encode (.convTime h)).op = 0x32 ∧ (encode (.chCfg h)).op = 0x36 ∧
    exec (.convTime h) s = .next (s.reply (.ok (.seconds (1 / rateSps c.sampleRate)))) ∧
    exec (.chCfg h) s =
      .next (s.reply (.ok (.word (BitVec.ofNat 8 (c.muxIndex.toNat * 32 + (contBit c.continuous).toNat * 16 +
        (rateCode c.sampleRate).toNat * 4 + (gainCode c.gain).toNat)))))

/-- `GET_RAW` (R173): `GET_CONV` at the context's current rate; the phase becomes `Idle` on success only. A
context's rate is a settable one, as `StepKeepsInvariant` has it in every reachable state. -/
def Obligations.GetRawResult : Prop :=
  ∀ (s : State) (h : Nat) (c : Channel), s.Running → s.ch[h]? = some c →
    (encode (.getRaw h)).op = 0x33 ∧
    ∀ row ∈ rateRows, rateSps c.sampleRate = row.1 →
      (s.dev.lastConfig = .unwritten → exec (.getRaw h) s = .next (s.faultedBy .unwrittenLastConfig)) ∧
      ∀ cmd : Byte, s.dev.lastConfig = .byte cmd →
        ((∀ b0 b1 b2 : Byte, s.nextReadAnswer ≠ .bytes [b0, b1, b2]) →
          exec (.getRaw h) s = .next ((s.didRead cmd).reply (.raise (.busError .read)))) ∧
        ∀ b0 b1 b2 : Byte, s.nextReadAnswer = .bytes [b0, b1, b2] →
          (b2.getLsbD 7 = true →
            exec (.getRaw h) s = .next ((s.didRead cmd).reply (.raise .conversionNotReady))) ∧
          (b2.getLsbD 7 = false →
            exec (.getRaw h) s =
              .next (({ s with ch := s.ch.set h { c with phase := .idle } }.didRead cmd).reply
                (.ok (.code (frameCode b0 b1 row.2.1 row.2.2.1)))))

/-- `GET_VOLTS` (R174): the code of `GET_RAW` scaled with the context's current gain and full-scale code; every
error of `GET_RAW` propagates. A context's rate is a settable one, as in `GetRawResult`. -/
def Obligations.GetVoltsResult : Prop :=
  ∀ (s : State) (h : Nat) (c : Channel), s.Running → s.ch[h]? = some c →
    (encode (.getVolts h)).op = 0x34 ∧
    ∀ row ∈ rateRows, rateSps c.sampleRate = row.1 →
      (s.dev.lastConfig = .unwritten → exec (.getVolts h) s = .next (s.faultedBy .unwrittenLastConfig)) ∧
      ∀ cmd : Byte, s.dev.lastConfig = .byte cmd →
        ((∀ b0 b1 b2 : Byte, s.nextReadAnswer ≠ .bytes [b0, b1, b2]) →
          exec (.getVolts h) s = .next ((s.didRead cmd).reply (.raise (.busError .read)))) ∧
        ∀ b0 b1 b2 : Byte, s.nextReadAnswer = .bytes [b0, b1, b2] →
          (b2.getLsbD 7 = true →
            exec (.getVolts h) s = .next ((s.didRead cmd).reply (.raise .conversionNotReady))) ∧
          (b2.getLsbD 7 = false →
            exec (.getVolts h) s =
              .next (({ s with ch := s.ch.set h { c with phase := .idle } }.didRead cmd).reply
                (.ok (.volts ((frameCode b0 b1 row.2.1 row.2.2.1 : Rat) * 256 /
                  (125 * (row.2.2.1 : Rat) * (gainValue c.gain : Rat)))))))

/-- `IS_ACTIVE` (R175). -/
def Obligations.IsActiveResult : Prop :=
  ∀ (s : State) (h : Nat) (c : Channel), s.Running → s.ch[h]? = some c →
    (encode (.isActive h)).op = 0x35 ∧
    (s.dev.lastConfig = .unwritten → exec (.isActive h) s = .next (s.faultedBy .unwrittenLastConfig)) ∧
    ∀ w : Byte, s.dev.lastConfig = .byte w →
      exec (.isActive h) s =
        .next (s.reply (.ok (.bool (decide (w.toNat / 32 % 4 = c.muxIndex.toNat)))))

/-- The laws of the channel path (R177, which the spec derives): after a successful `START h` the active contexts
are exactly those with `h`'s mux index, the cached byte is `h`'s config byte and `ACTIVE_CHAN` its mux index; and
no operation but `INITIATE` and `START` changes the cached byte or any `IS_ACTIVE` answer, nor do they where the
write fails. -/
def Obligations.StartDecidesWhoIsActive : Prop :=
  (∀ (s t : State) (h : Nat) (c : Channel), s.ch[h]? = some c → exec (.start h) s = .next t →
      t.outcomes = .ok .unit :: s.outcomes →
      t.dev.lastConfig = .byte (configByte c) ∧
        exec (.chCfg h) t = .next (t.reply (.ok (.word (configByte c)))) ∧
        exec .activeChan t = .next (t.reply (.ok (.index (c.muxIndex.toNat : Nat)))) ∧
        ∀ (h' : Nat) (c' : Channel), s.ch[h']? = some c' →
          exec (.isActive h') t = .next (t.reply (.ok (.bool (decide (c'.muxIndex = c.muxIndex)))))) ∧
    ∀ (s t : State) (i : Instr),
      (((∀ w, i ≠ .initiate w) ∧ ∀ h, i ≠ .start h) ∨ s.nextWriteAnswer = .transportError) →
      exec i s = .next t →
      t.dev.lastConfig = s.dev.lastConfig ∧
        ∀ (h : Nat) (b : Bool), t.Running → exec (.isActive h) s = .next (s.reply (.ok (.bool b))) →
          exec (.isActive h) t = .next (t.reply (.ok (.bool b)))

/-- The acquisition mode is the converter's affair (R178): once a configuration is cached, in either mode, each
`GET_VOLTS` performs one read and ends in volts, `ConversionNotReady` or `BusError`, in no fault and no refusal. The
invariant rules out contexts that hold 3.75 sps. -/
def Obligations.EveryReadEndsInResultOrListedError : Prop :=
  ∀ (s : State) (h : Nat) (c : Channel) (cmd : Byte), s.Running → s.Inv → s.ch[h]? = some c →
    s.dev.lastConfig = .byte cmd →
      ∃ (t : State) (o : OpOutcome Value), exec (.getVolts h) s = .next t ∧ t.Running ∧
        t.txns = .read s.dev.address cmd 3 :: s.txns ∧ t.outcomes = o :: s.outcomes ∧
        ((∃ v, o = .ok (.volts v)) ∨ o = .raise .conversionNotReady ∨ o = .raise (.busError .read))

/-! ### The scaler -/

/-- `SCALE` (R190): the 18-bit refusal, gain, full-scale code, then the exact value. -/
def Obligations.ScaleResult : Prop :=
  ∀ (s : State) (raw gain maxCode : Int), s.Running →
    (encode (.scale raw gain maxCode)).op = 0x40 ∧
    (maxCode = 131071 → exec (.scale raw gain maxCode) s = .next (s.refusedBy .unsupported18Bit)) ∧
    (maxCode ≠ 131071 → gain ∉ ([1, 2, 4, 8] : List Int) →
      exec (.scale raw gain maxCode) s = .next (s.reply (.raise (.invalidArgument .gain (.int gain))))) ∧
    (maxCode ≠ 131071 → gain ∈ ([1, 2, 4, 8] : List Int) → maxCode ∉ ([2047, 8191, 32767] : List Int) →
      exec (.scale raw gain maxCode) s =
        .next (s.reply (.raise (.invalidArgument .maxCode (.int maxCode))))) ∧
    (gain ∈ ([1, 2, 4, 8] : List Int) → maxCode ∈ ([2047, 8191, 32767] : List Int) →
      exec (.scale raw gain maxCode) s =
        .next (s.reply (.ok (.volts ((raw : Rat) * 256 / (125 * (maxCode : Rat) * (gain : Rat)))))))

/-- The two formulations of the source agree exactly (R191). -/
def Obligations.ScaleFormulationsAgree : Prop :=
  ∀ (raw maxCode : Int) (g : Gain),
    scaleVolts raw g maxCode = (raw : Rat) * (Config.vref / (gainValue g : Rat)) / (maxCode : Rat) ∧
      scaleVolts raw g maxCode = (raw : Rat) * 256 / (125 * (maxCode : Rat) * (gainValue g : Rat))

/-- The laws of `Scale` (R194, which the spec derives): additive and odd in the code, sign-preserving, halved by a
doubled gain, with the stated step of one code, and within the stated range over the decoder's codes. -/
def Obligations.ScaleLaws : Prop :=
  ∀ (g : Gain), ∀ row ∈ rateRows, ∀ a b : Int,
    scaleVolts (a + b) g row.2.2.1 = scaleVolts a g row.2.2.1 + scaleVolts b g row.2.2.1 ∧
      scaleVolts (-a) g row.2.2.1 = -scaleVolts a g row.2.2.1 ∧
      (0 < scaleVolts a g row.2.2.1 ↔ 0 < a) ∧ (scaleVolts a g row.2.2.1 < 0 ↔ a < 0) ∧
      scaleVolts 1 g row.2.2.1 = 256 / (125 * (row.2.2.1 : Rat) * (gainValue g : Rat)) ∧
      (∀ g' : Gain, gainValue g' = 2 * gainValue g →
        scaleVolts a g' row.2.2.1 = scaleVolts a g row.2.2.1 / 2) ∧
      (-(row.2.2.1 + 1) ≤ a → a ≤ row.2.2.1 →
        -(Config.vref * ((row.2.2.1 : Rat) + 1) / ((row.2.2.1 : Rat) * (gainValue g : Rat))) ≤
            scaleVolts a g row.2.2.1 ∧
          scaleVolts a g row.2.2.1 ≤ Config.vref / (gainValue g : Rat))

/-- The widths of the exact pair (R195, which the spec derives), over every code the decoder gives. -/
def Obligations.ScalePairWidths : Prop :=
  ∀ (b0 b1 : Byte) (g : Gain), ∀ row ∈ rateRows,
    -(2 : Int) ^ 23 ≤ frameCode b0 b1 row.2.1 row.2.2.1 * 256 ∧
      frameCode b0 b1 row.2.1 row.2.2.1 * 256 ≤ 8388352 ∧
      125 * row.2.2.1 * (gainValue g : Int) ≤ 32767000 ∧
      scaleVolts (frameCode b0 b1 row.2.1 row.2.2.1) g row.2.2.1 =
        ((frameCode b0 b1 row.2.1 row.2.2.1 * 256 : Int) : Rat) /
          ((125 * row.2.2.1 * (gainValue g : Int) : Int) : Rat)

/-! ### The caller -/

/-- `COMPOSE` (R77): for valid operands the expansion binds the word of R66 and changes nothing of the block but the
outcomes returned; otherwise it raises `InvalidArgument` at the first step whose operand is invalid. That the lines
after that step issue no command and `n` is then bound to nothing is the model's choice (notes/assumptions/8.md). -/
def Obligations.ComposeExpansionGivesComposition : Prop :=
  ∀ (s : State) (env : Env) (n : String) (index gain : Int) (rate : Rat) (b : Bool), s.Running →
    ∃ (env' : Env) (t : State),
      runLines (Pseudo.expand s.dev.channelCount
          (.compose n (.lit (.int index)) (.lit (.bool b)) (.lit (.rat rate)) (.lit (.int gain)))) env s =
        .next (env', t) ∧
      t.dev = s.dev ∧ t.ch = s.ch ∧ t.txns = s.txns ∧ t.Running ∧ t.commands = s.commands ∧
      (∀ (m : MuxCode) (r : Rate) (g : Gain), (m.toNat : Int) = index →
        m.toNat < channelCountValue s.dev.channelCount → rateSps r = rate → rateSettable r = true →
        (gainValue g : Int) = gain → env'.lookup n = some (.byte (compose m b r g))) ∧
      (¬(0 ≤ index ∧ index < channelCountValue s.dev.channelCount) →
        env'.lookup n = none ∧ t.outcomes.head? = some (.raise (.invalidArgument .channel (.int index)))) ∧
      ((0 ≤ index ∧ index < channelCountValue s.dev.channelCount) → rate ∉ ([15, 60, 240] : List Rat) →
        env'.lookup n = none ∧ t.outcomes.head? = some (.raise (.invalidArgument .rate (.rat rate)))) ∧
      ((0 ≤ index ∧ index < channelCountValue s.dev.channelCount) → rate ∈ ([15, 60, 240] : List Rat) →
        gain ∉ ([1, 2, 4, 8] : List Int) →
        env'.lookup n = none ∧ t.outcomes.head? = some (.raise (.invalidArgument .gain (.int gain))))

/-- `VOLTS_OF` and `READ_VOLTS` (R77): with valid operands `VOLTS_OF` binds the code scaled with the rate's
full-scale code and changes nothing of the block but the outcomes returned; `READ_VOLTS` starts the context, then
reads it, and binds `v` to the volts, or ends in `ConversionNotReady` (R250). Two points are the model's choice: that
the name it binds is `v` (notes/assumptions/10.md), and that `v` is bound to nothing after `ConversionNotReady`, also
where it was bound before (DESIGN CHOICE, notes/assumptions/8.md). A context's rate is a settable one, as in
`GetRawResult`. -/
def Obligations.VoltsOfAndReadVoltsExpansions : Prop :=
  (∀ (s : State) (env : Env) (n : String) (raw : Int) (g : Gain), s.Running → ∀ row ∈ rateRows,
      ∃ (env' : Env) (t : State),
        runLines (Pseudo.expand s.dev.channelCount
            (.voltsOf n (.lit (.int raw)) (.lit (.int (gainValue g))) (.lit (.rat row.1)))) env s =
          .next (env', t) ∧
        t.dev = s.dev ∧ t.ch = s.ch ∧ t.txns = s.txns ∧ t.Running ∧ t.commands = s.commands ∧
        env'.lookup n =
          some (.rat ((raw : Rat) * 256 / (125 * (row.2.2.1 : Rat) * (gainValue g : Rat))))) ∧
    ∀ (s : State) (env : Env) (h : Nat) (c : Channel) (b0 b1 b2 : Byte) (rest : List ReadAnswer), s.Running →
      s.ch[h]? = some c → s.nextWriteAnswer = .ok → s.readAnswers = .bytes [b0, b1, b2] :: rest →
      ∀ row ∈ rateRows, rateSps c.sampleRate = row.1 →
        ∃ (env' : Env) (t : State),
          runLines (Pseudo.expand s.dev.channelCount (.readVolts (.lit (.handle h)))) env s =
            .next (env', t) ∧
          t.dev.lastConfig = .byte (configByte c) ∧ t.Running ∧
          t.txns = .read s.dev.address (configByte c) 3 ::
            .write s.dev.address (configByte c ||| 0x80) :: s.txns ∧
          (b2.getLsbD 7 = true →
            t.outcomes = .raise .conversionNotReady :: .ok .unit :: s.outcomes ∧ env'.lookup "v" = none ∧
              t.ch[h]? = some { c with phase := .awaiting }) ∧
          (b2.getLsbD 7 = false →
            env'.lookup "v" =
                some (.rat ((frameCode b0 b1 row.2.1 row.2.2.1 : Rat) * 256 /
                  (125 * (row.2.2.1 : Rat) * (gainValue c.gain : Rat)))) ∧
              t.ch[h]? = some { c with phase := .idle })

/-! ### Every command has an outcome -/

/-- A running block takes the next command issued and returns one outcome for it (R13, R70): the outcome of the
operation it decodes to or, for an opcode outside the map, the refusal (R74). The outcome may be a fault or a refusal,
and then the block is stopped for good (R215, R216, R218). That this holds whatever the operands is the model's choice,
notes/assumptions/6.md: there is no command with another operand tuple than its opcode's (DEDUCED), and a negative rate
runs (DESIGN CHOICE). That a fault or a refusal ends in a next state is notes/assumptions/9.md (DEDUCED). -/
def Obligations.EveryCommandIsExecuted : Prop :=
  ∀ (s : State) (c : Command) (rest : List Command), s.Running → s.commands = c :: rest →
    ∃ (t : State) (o : OpOutcome Value), step s = .next t ∧ t.commands = rest ∧ t.outcomes = o :: s.outcomes ∧
      ((∃ i : Instr, Sys2Proof.decode c = .ok i ∧ exec i { s with commands := rest } = .next t) ∨
        o = .refuse (.illegalOpcode c.op) ∧ ∀ op : Op, c.op ≠ op.byte)

end
end

