-- ==== Sys2Proof/Laws/Decode.lean ====
section
/-! SUPPORT. What the decoder can answer, said once. -/

namespace Sys2Proof

/-- A byte is an operation's opcode exactly when the map finds that operation (R72). -/
theorem Op.ofByte?_eq_some_iff (b : Byte) (o : Op) : Op.ofByte? b = some o ↔ o.byte = b := by
  constructor
  · intro h
    simpa using List.find?_some h
  · rintro rfl
    cases o <;> rfl

/-- The operand tuple an operation fixes is read as an operation of that opcode and with those operands (R72,
R75). -/
theorem Op.read_of_types (o : Op) (operands : List Operand) (h : operands.map Operand.type = o.operandTypes) :
    ∃ i : Instr, o.read operands = some i ∧ i.op = o ∧ i.operands = operands := by
  cases o <;>
    simp only [Op.operandTypes, List.map_eq_cons_iff, List.map_eq_nil_iff] at h <;>
    (try obtain ⟨x1, _, rfl, e1, h⟩ := h) <;> (try obtain ⟨x2, _, rfl, e2, h⟩ := h) <;>
    (try obtain ⟨x3, _, rfl, e3, h⟩ := h) <;> (try obtain ⟨x4, _, rfl, e4, h⟩ := h) <;> (try subst h) <;>
    (try cases x1 <;> cases e1) <;> (try cases x2 <;> cases e2) <;> (try cases x3 <;> cases e3) <;>
    (try cases x4 <;> cases e4) <;> exact ⟨_, rfl, rfl, rfl⟩

/-- The operands of an operation are read back as it. -/
@[simp] theorem Op.read_operands (i : Instr) : i.op.read i.operands = some i := by cases i <;> rfl

/-- A command whose opcode is in the map decodes to an operation of that opcode with the command's operands. -/
theorem decode_of_ofByte? {c : Command} {o : Op} (h : Op.ofByte? c.op = some o) :
    ∃ i : Instr, decode c = .ok i ∧ i.op = o ∧ i.operands = c.operands := by
  have fits := c.fits
  simp only [operandsFit, h, beq_iff_eq] at fits
  obtain ⟨i, hi, ho, hs⟩ := Op.read_of_types o c.operands fits
  exact ⟨i, by simp [decode, h, hi], ho, hs⟩

/-- A command decodes to an operation exactly when its opcode and operands are that operation's. -/
theorem decode_eq_ok_iff (c : Command) (i : Instr) :
    decode c = .ok i ↔ c.op = i.op.byte ∧ c.operands = i.operands := by
  constructor
  · intro h
    cases ho : Op.ofByte? c.op with
    | none => simp [decode, ho] at h
    | some o =>
      obtain ⟨j, hj, rfl, hs⟩ := decode_of_ofByte? ho
      cases hj.symm.trans h
      exact ⟨((Op.ofByte?_eq_some_iff _ _).mp ho).symm, hs.symm⟩
  · rintro ⟨h1, h2⟩
    simp [decode, h2, (Op.ofByte?_eq_some_iff _ _).mpr h1.symm]

/-- Only an opcode outside the map spells no operation (R74). -/
theorem decode_eq_error_iff (c : Command) (e : DecodeError) :
    decode c = .error e ↔ Op.ofByte? c.op = none ∧ e = .illegalOpcode c.op := by
  cases ho : Op.ofByte? c.op with
  | none => simp [decode, ho, eq_comm]
  | some o =>
    obtain ⟨i, hi, -, -⟩ := decode_of_ofByte? ho
    simp [hi]

end Sys2Proof
end

