-- ==== Sys2Proof/Laws/Operands.lean ====
section
/-! SUPPORT. The closed sets as numbers, the checks of operands and the outcomes in sequence. -/

namespace Sys2Proof.Machine

@[simp] theorem OpOutcome.bind_ok {α β : Type} (v : α) (k : α → OpOutcome β) :
    (OpOutcome.ok v).bind k = k v := rfl

@[simp] theorem OpOutcome.bind_raise {α β : Type} (e : OpError) (k : α → OpOutcome β) :
    (OpOutcome.raise e : OpOutcome α).bind k = .raise e := rfl

@[simp] theorem OpOutcome.bind_fault {α β : Type} (f : Fault) (k : α → OpOutcome β) :
    (OpOutcome.fault f : OpOutcome α).bind k = .fault f := rfl

@[simp] theorem OpOutcome.bind_refuse {α β : Type} (x : Refusal) (k : α → OpOutcome β) :
    (OpOutcome.refuse x : OpOutcome α).bind k = .refuse x := rfl

@[simp] theorem OpOutcome.andThen_ok {α β : Type} (v : α) (s : State) (k : α → OpOutcome β × State) :
    (OpOutcome.ok v).andThen s k = k v := rfl

@[simp] theorem OpOutcome.andThen_raise {α β : Type} (e : OpError) (s : State)
    (k : α → OpOutcome β × State) : (OpOutcome.raise e : OpOutcome α).andThen s k = (.raise e, s) := rfl

@[simp] theorem OpOutcome.andThen_fault {α β : Type} (f : Fault) (s : State) (k : α → OpOutcome β × State) :
    (OpOutcome.fault f : OpOutcome α).andThen s k = (.fault f, s) := rfl

@[simp] theorem OpOutcome.andThen_refuse {α β : Type} (x : Refusal) (s : State)
    (k : α → OpOutcome β × State) : (OpOutcome.refuse x : OpOutcome α).andThen s k = (.refuse x, s) := rfl

@[simp] theorem OpOutcome.map_ok {α β : Type} (f : α → β) (v : α) :
    (OpOutcome.ok v).map f = .ok (f v) := rfl

@[simp] theorem OpOutcome.map_raise {α β : Type} (f : α → β) (e : OpError) :
    (OpOutcome.raise e).map f = .raise e := rfl

@[simp] theorem OpOutcome.map_fault {α β : Type} (f : α → β) (x : Fault) :
    (OpOutcome.fault x).map f = .fault x := rfl

@[simp] theorem OpOutcome.map_refuse {α β : Type} (f : α → β) (x : Refusal) :
    (OpOutcome.refuse x).map f = .refuse x := rfl

@[simp] theorem OpOutcome.lift_ok {α : Type} (v : α) : OpOutcome.lift (.ok v) = .ok v := rfl

@[simp] theorem OpOutcome.lift_error {α : Type} (e : OpError) :
    (OpOutcome.lift (.error e) : OpOutcome α) = .raise e := rfl

/-- 3.75 is 15/4. -/
theorem rate3p75_eq : rate3p75 = 15 / 4 := by decide +kernel

theorem gainOf?_gainValue (g : Gain) : gainOf? (gainValue g) = some g := by cases g <;> decide

theorem gainOf?_eq_some {n : Int} {g : Gain} : gainOf? n = some g ↔ n = gainValue g := by
  constructor
  · intro h
    unfold gainOf? at h
    split at h
    · cases h; assumption
    · split at h
      · cases h; assumption
      · split at h
        · cases h; assumption
        · split at h
          · cases h; assumption
          · cases h
  · rintro rfl
    exact gainOf?_gainValue g

theorem gainOf?_eq_none {n : Int} : gainOf? n = none ↔ n ≠ 1 ∧ n ≠ 2 ∧ n ≠ 4 ∧ n ≠ 8 := by
  unfold gainOf?
  split_ifs <;> simp_all

theorem channelCountOf?_value (c : ChannelCount) : channelCountOf? (channelCountValue c) = some c := by
  cases c <;> decide

theorem channelCountOf?_eq_some {n : Int} {c : ChannelCount} :
    channelCountOf? n = some c ↔ n = channelCountValue c := by
  constructor
  · intro h
    unfold channelCountOf? at h
    split at h
    · cases h; assumption
    · split at h
      · cases h; assumption
      · split at h
        · cases h; assumption
        · cases h
  · rintro rfl
    exact channelCountOf?_value c

theorem channelCountOf?_eq_none {n : Int} : channelCountOf? n = none ↔ n ≠ 1 ∧ n ≠ 2 ∧ n ≠ 4 := by
  unfold channelCountOf?
  split_ifs <;> simp_all

theorem rateOfSps?_rateSps (r : Rate) : rateOfSps? (rateSps r) = some r := by cases r <;> decide

theorem rateOfSps?_eq_some {q : Rat} {r : Rate} : rateOfSps? q = some r ↔ q = rateSps r := by
  constructor
  · intro h
    unfold rateOfSps? at h
    split at h
    · cases h; assumption
    · split at h
      · cases h; assumption
      · split at h
        · cases h; assumption
        · split at h
          · cases h; assumption
          · cases h
  · rintro rfl
    exact rateOfSps?_rateSps r

theorem rateOfMaxCode?_rateMaxCode (r : Rate) : rateOfMaxCode? (rateMaxCode r) = some r := by
  cases r <;> decide

theorem rateOfMaxCode?_eq_some {n : Int} {r : Rate} : rateOfMaxCode? n = some r ↔ n = rateMaxCode r := by
  constructor
  · intro h
    unfold rateOfMaxCode? at h
    split at h
    · cases h; assumption
    · split at h
      · cases h; assumption
      · split at h
        · cases h; assumption
        · split at h
          · cases h; assumption
          · cases h
  · rintro rfl
    exact rateOfMaxCode?_rateMaxCode r

/-- The check of a gain: a gain of the family, or the error that names it. -/
theorem checkGain_cases (gain : Int) :
    (∃ g : Gain, gain = gainValue g ∧ checkGain gain = .ok g) ∨
      (gainOf? gain = none ∧ checkGain gain = .error (.invalidArgument .gain (.int gain))) := by
  unfold checkGain
  cases h : gainOf? gain with
  | none => exact .inr ⟨rfl, rfl⟩
  | some g => exact .inl ⟨g, gainOf?_eq_some.mp h, rfl⟩

theorem checkGain_gainValue (g : Gain) : checkGain (gainValue g) = .ok g := by
  simp [checkGain, gainOf?_gainValue]

/-- The check of a settable rate: a settable row of the table, or the error that names the rate. -/
theorem checkRate_cases (rate : Rat) :
    (∃ r : Rate, rate = rateSps r ∧ rateSettable r = true ∧ checkRate rate = .ok r) ∨
      ((∀ r : Rate, rateSettable r = true → rate ≠ rateSps r) ∧
        checkRate rate = .error (.invalidArgument .rate (.rat rate))) := by
  unfold checkRate
  cases h : rateOfSps? rate with
  | none =>
    refine .inr ⟨?_, rfl⟩
    rintro r - rfl
    simp [rateOfSps?_rateSps] at h
  | some r =>
    obtain rfl := rateOfSps?_eq_some.mp h
    cases hs : rateSettable r with
    | true => exact .inl ⟨r, rfl, hs, by simp [hs]⟩
    | false =>
      refine .inr ⟨?_, by simp [hs]⟩
      rintro r' h' he
      have := rateOfSps?_rateSps r'
      rw [← he, h] at this
      cases this
      simp [hs] at h'

theorem checkRate_rateSps {r : Rate} (h : rateSettable r = true) : checkRate (rateSps r) = .ok r := by
  simp [checkRate, rateOfSps?_rateSps, h]

/-- The check of a decode width: the 18-bit refusal, or the check of a settable rate. -/
theorem checkWidth_cases (rate : Rat) :
    (rate = rate3p75 ∧ checkWidth rate = .refuse .unsupported18Bit) ∨
      (rate ≠ rate3p75 ∧ checkWidth rate = .lift (checkRate rate)) := by
  unfold checkWidth
  split
  · exact .inl ⟨‹_›, rfl⟩
  · exact .inr ⟨‹_›, rfl⟩

theorem checkWidth_rateSps {r : Rate} (h : rateSettable r = true) : checkWidth (rateSps r) = .ok r := by
  cases r <;> first | decide | cases h

/-- The check of a channel count. -/
theorem checkCount_cases (count : Int) :
    (∃ n : ChannelCount, count = channelCountValue n ∧ checkCount count = .ok n) ∨
      (channelCountOf? count = none ∧ checkCount count = .error (.invalidArgument .count (.int count))) := by
  unfold checkCount
  cases h : channelCountOf? count with
  | none => exact .inr ⟨rfl, rfl⟩
  | some n => exact .inl ⟨n, channelCountOf?_eq_some.mp h, rfl⟩

/-- The check of a channel index: the mux code of the same number, or the error that names the index. -/
theorem checkChannel_cases (count : ChannelCount) (index : Int) :
    (∃ m : MuxCode, (m.toNat : Int) = index ∧ m.toNat < channelCountValue count ∧
        checkChannel count index = .ok m) ∨
      (¬(0 ≤ index ∧ index < channelCountValue count) ∧
        checkChannel count index = .error (.invalidArgument .channel (.int index))) := by
  unfold checkChannel
  split
  · rename_i h
    have h4 : channelCountValue count ≤ 4 := by cases count <;> decide
    have hm : ((BitVec.ofInt 2 index).toNat : Int) = index := by
      rw [BitVec.toNat_ofInt]
      omega
    exact .inl ⟨_, hm, by omega, rfl⟩
  · exact .inr ⟨‹_›, rfl⟩

/-- The check of a full-scale code. -/
theorem checkMaxCode_cases (mc : Int) :
    (∃ r : Rate, mc = rateMaxCode r ∧ rateSettable r = true ∧ checkMaxCode mc = .ok r) ∨
      ((∀ r : Rate, rateSettable r = true → mc ≠ rateMaxCode r) ∧
        checkMaxCode mc = .error (.invalidArgument .maxCode (.int mc))) := by
  unfold checkMaxCode
  cases h : rateOfMaxCode? mc with
  | none =>
    refine .inr ⟨?_, rfl⟩
    rintro r - rfl
    simp [rateOfMaxCode?_rateMaxCode] at h
  | some r =>
    obtain rfl := rateOfMaxCode?_eq_some.mp h
    cases hs : rateSettable r with
    | true => exact .inl ⟨r, rfl, hs, by simp [hs]⟩
    | false =>
      refine .inr ⟨?_, by simp [hs]⟩
      rintro r' h' he
      have := rateOfMaxCode?_rateMaxCode r'
      rw [← he, h] at this
      cases this
      simp [hs] at h'

end Sys2Proof.Machine
end

