-- ==== Sys2Proof/Laws/State.lean ====
section
/-! SUPPORT. What each update of the state leaves in each field. -/

namespace Sys2Proof.Machine

@[simp] theorem State.setLastConfig_dev (s : State) (w : Byte) :
    (s.setLastConfig w).dev = { s.dev with lastConfig := .byte w } := rfl

@[simp] theorem State.setLastConfig_ch (s : State) (w : Byte) :
    (s.setLastConfig w).ch = s.ch := rfl

@[simp] theorem State.setLastConfig_fault (s : State) (w : Byte) :
    (s.setLastConfig w).fault = s.fault := rfl

@[simp] theorem State.setLastConfig_refused (s : State) (w : Byte) :
    (s.setLastConfig w).refused = s.refused := rfl

@[simp] theorem State.setLastConfig_commands (s : State) (w : Byte) :
    (s.setLastConfig w).commands = s.commands := rfl

@[simp] theorem State.setLastConfig_writeAnswers (s : State) (w : Byte) :
    (s.setLastConfig w).writeAnswers = s.writeAnswers := rfl

@[simp] theorem State.setLastConfig_readAnswers (s : State) (w : Byte) :
    (s.setLastConfig w).readAnswers = s.readAnswers := rfl

@[simp] theorem State.setLastConfig_txns (s : State) (w : Byte) :
    (s.setLastConfig w).txns = s.txns := rfl

@[simp] theorem State.setLastConfig_outcomes (s : State) (w : Byte) :
    (s.setLastConfig w).outcomes = s.outcomes := rfl

@[simp] theorem State.setChannel_dev (s : State) (h : Nat) (c : Channel) :
    (s.setChannel h c).dev = s.dev := rfl

@[simp] theorem State.setChannel_ch (s : State) (h : Nat) (c : Channel) :
    (s.setChannel h c).ch = s.ch.set h c := rfl

@[simp] theorem State.setChannel_fault (s : State) (h : Nat) (c : Channel) :
    (s.setChannel h c).fault = s.fault := rfl

@[simp] theorem State.setChannel_refused (s : State) (h : Nat) (c : Channel) :
    (s.setChannel h c).refused = s.refused := rfl

@[simp] theorem State.setChannel_commands (s : State) (h : Nat) (c : Channel) :
    (s.setChannel h c).commands = s.commands := rfl

@[simp] theorem State.setChannel_writeAnswers (s : State) (h : Nat) (c : Channel) :
    (s.setChannel h c).writeAnswers = s.writeAnswers := rfl

@[simp] theorem State.setChannel_readAnswers (s : State) (h : Nat) (c : Channel) :
    (s.setChannel h c).readAnswers = s.readAnswers := rfl

@[simp] theorem State.setChannel_txns (s : State) (h : Nat) (c : Channel) :
    (s.setChannel h c).txns = s.txns := rfl

@[simp] theorem State.setChannel_outcomes (s : State) (h : Nat) (c : Channel) :
    (s.setChannel h c).outcomes = s.outcomes := rfl

@[simp] theorem State.issue_dev (s : State) (c : Command) :
    (s.issue c).dev = s.dev := rfl

@[simp] theorem State.issue_ch (s : State) (c : Command) :
    (s.issue c).ch = s.ch := rfl

@[simp] theorem State.issue_fault (s : State) (c : Command) :
    (s.issue c).fault = s.fault := rfl

@[simp] theorem State.issue_refused (s : State) (c : Command) :
    (s.issue c).refused = s.refused := rfl

@[simp] theorem State.issue_commands (s : State) (c : Command) :
    (s.issue c).commands = c :: s.commands := rfl

@[simp] theorem State.issue_writeAnswers (s : State) (c : Command) :
    (s.issue c).writeAnswers = s.writeAnswers := rfl

@[simp] theorem State.issue_readAnswers (s : State) (c : Command) :
    (s.issue c).readAnswers = s.readAnswers := rfl

@[simp] theorem State.issue_txns (s : State) (c : Command) :
    (s.issue c).txns = s.txns := rfl

@[simp] theorem State.issue_outcomes (s : State) (c : Command) :
    (s.issue c).outcomes = s.outcomes := rfl

@[simp] theorem State.reply_dev (s : State) (o : OpOutcome Value) :
    (s.reply o).dev = s.dev := rfl

@[simp] theorem State.reply_ch (s : State) (o : OpOutcome Value) :
    (s.reply o).ch = s.ch := rfl

@[simp] theorem State.reply_fault (s : State) (o : OpOutcome Value) :
    (s.reply o).fault = s.fault := rfl

@[simp] theorem State.reply_refused (s : State) (o : OpOutcome Value) :
    (s.reply o).refused = s.refused := rfl

@[simp] theorem State.reply_commands (s : State) (o : OpOutcome Value) :
    (s.reply o).commands = s.commands := rfl

@[simp] theorem State.reply_writeAnswers (s : State) (o : OpOutcome Value) :
    (s.reply o).writeAnswers = s.writeAnswers := rfl

@[simp] theorem State.reply_readAnswers (s : State) (o : OpOutcome Value) :
    (s.reply o).readAnswers = s.readAnswers := rfl

@[simp] theorem State.reply_txns (s : State) (o : OpOutcome Value) :
    (s.reply o).txns = s.txns := rfl

@[simp] theorem State.reply_outcomes (s : State) (o : OpOutcome Value) :
    (s.reply o).outcomes = o :: s.outcomes := rfl

@[simp] theorem State.faultedBy_dev (s : State) (f : Fault) :
    (s.faultedBy f).dev = s.dev := rfl

@[simp] theorem State.faultedBy_ch (s : State) (f : Fault) :
    (s.faultedBy f).ch = s.ch := rfl

@[simp] theorem State.faultedBy_fault (s : State) (f : Fault) :
    (s.faultedBy f).fault = some f := rfl

@[simp] theorem State.faultedBy_refused (s : State) (f : Fault) :
    (s.faultedBy f).refused = s.refused := rfl

@[simp] theorem State.faultedBy_commands (s : State) (f : Fault) :
    (s.faultedBy f).commands = s.commands := rfl

@[simp] theorem State.faultedBy_writeAnswers (s : State) (f : Fault) :
    (s.faultedBy f).writeAnswers = s.writeAnswers := rfl

@[simp] theorem State.faultedBy_readAnswers (s : State) (f : Fault) :
    (s.faultedBy f).readAnswers = s.readAnswers := rfl

@[simp] theorem State.faultedBy_txns (s : State) (f : Fault) :
    (s.faultedBy f).txns = s.txns := rfl

@[simp] theorem State.faultedBy_outcomes (s : State) (f : Fault) :
    (s.faultedBy f).outcomes = .fault f :: s.outcomes := rfl

@[simp] theorem State.refusedBy_dev (s : State) (r : Refusal) :
    (s.refusedBy r).dev = s.dev := rfl

@[simp] theorem State.refusedBy_ch (s : State) (r : Refusal) :
    (s.refusedBy r).ch = s.ch := rfl

@[simp] theorem State.refusedBy_fault (s : State) (r : Refusal) :
    (s.refusedBy r).fault = s.fault := rfl

@[simp] theorem State.refusedBy_refused (s : State) (r : Refusal) :
    (s.refusedBy r).refused = some r := rfl

@[simp] theorem State.refusedBy_commands (s : State) (r : Refusal) :
    (s.refusedBy r).commands = s.commands := rfl

@[simp] theorem State.refusedBy_writeAnswers (s : State) (r : Refusal) :
    (s.refusedBy r).writeAnswers = s.writeAnswers := rfl

@[simp] theorem State.refusedBy_readAnswers (s : State) (r : Refusal) :
    (s.refusedBy r).readAnswers = s.readAnswers := rfl

@[simp] theorem State.refusedBy_txns (s : State) (r : Refusal) :
    (s.refusedBy r).txns = s.txns := rfl

@[simp] theorem State.refusedBy_outcomes (s : State) (r : Refusal) :
    (s.refusedBy r).outcomes = .refuse r :: s.outcomes := rfl

@[simp] theorem State.wrote_dev (s : State) (byte : Byte) :
    (s.wrote byte).dev = s.dev := rfl

@[simp] theorem State.wrote_ch (s : State) (byte : Byte) :
    (s.wrote byte).ch = s.ch := rfl

@[simp] theorem State.wrote_fault (s : State) (byte : Byte) :
    (s.wrote byte).fault = s.fault := rfl

@[simp] theorem State.wrote_refused (s : State) (byte : Byte) :
    (s.wrote byte).refused = s.refused := rfl

@[simp] theorem State.wrote_commands (s : State) (byte : Byte) :
    (s.wrote byte).commands = s.commands := rfl

@[simp] theorem State.wrote_writeAnswers (s : State) (byte : Byte) :
    (s.wrote byte).writeAnswers = s.writeAnswers.tail := rfl

@[simp] theorem State.wrote_readAnswers (s : State) (byte : Byte) :
    (s.wrote byte).readAnswers = s.readAnswers := rfl

@[simp] theorem State.wrote_txns (s : State) (byte : Byte) :
    (s.wrote byte).txns = .write s.dev.address byte :: s.txns := rfl

@[simp] theorem State.wrote_outcomes (s : State) (byte : Byte) :
    (s.wrote byte).outcomes = s.outcomes := rfl

@[simp] theorem State.didRead_dev (s : State) (cmd : Byte) :
    (s.didRead cmd).dev = s.dev := rfl

@[simp] theorem State.didRead_ch (s : State) (cmd : Byte) :
    (s.didRead cmd).ch = s.ch := rfl

@[simp] theorem State.didRead_fault (s : State) (cmd : Byte) :
    (s.didRead cmd).fault = s.fault := rfl

@[simp] theorem State.didRead_refused (s : State) (cmd : Byte) :
    (s.didRead cmd).refused = s.refused := rfl

@[simp] theorem State.didRead_commands (s : State) (cmd : Byte) :
    (s.didRead cmd).commands = s.commands := rfl

@[simp] theorem State.didRead_writeAnswers (s : State) (cmd : Byte) :
    (s.didRead cmd).writeAnswers = s.writeAnswers := rfl

@[simp] theorem State.didRead_readAnswers (s : State) (cmd : Byte) :
    (s.didRead cmd).readAnswers = s.readAnswers.tail := rfl

@[simp] theorem State.didRead_txns (s : State) (cmd : Byte) :
    (s.didRead cmd).txns = .read s.dev.address cmd 3 :: s.txns := rfl

@[simp] theorem State.didRead_outcomes (s : State) (cmd : Byte) :
    (s.didRead cmd).outcomes = s.outcomes := rfl

@[simp] theorem State.withoutPhases_dev (s : State) :
    (s.withoutPhases).dev = s.dev := rfl

@[simp] theorem State.withoutPhases_ch (s : State) :
    (s.withoutPhases).ch = s.ch.map fun c => { c with phase := .idle } := rfl

@[simp] theorem State.withoutPhases_fault (s : State) :
    (s.withoutPhases).fault = s.fault := rfl

@[simp] theorem State.withoutPhases_refused (s : State) :
    (s.withoutPhases).refused = s.refused := rfl

@[simp] theorem State.withoutPhases_commands (s : State) :
    (s.withoutPhases).commands = s.commands := rfl

@[simp] theorem State.withoutPhases_writeAnswers (s : State) :
    (s.withoutPhases).writeAnswers = s.writeAnswers := rfl

@[simp] theorem State.withoutPhases_readAnswers (s : State) :
    (s.withoutPhases).readAnswers = s.readAnswers := rfl

@[simp] theorem State.withoutPhases_txns (s : State) :
    (s.withoutPhases).txns = s.txns := rfl

@[simp] theorem State.withoutPhases_outcomes (s : State) :
    (s.withoutPhases).outcomes = s.outcomes := rfl

@[simp] theorem State.setLastConfig_address (s : State) (w : Byte) :
    (s.setLastConfig w).dev.address = s.dev.address := rfl

@[simp] theorem State.setLastConfig_channelCount (s : State) (w : Byte) :
    (s.setLastConfig w).dev.channelCount = s.dev.channelCount := rfl

@[simp] theorem State.setLastConfig_lastConfig (s : State) (w : Byte) :
    (s.setLastConfig w).dev.lastConfig = .byte w := rfl

/-- A state is its fields. -/
theorem State.ext_fields {s t : State} (dev : s.dev = t.dev) (ch : s.ch = t.ch) (fault : s.fault = t.fault)
    (refused : s.refused = t.refused) (commands : s.commands = t.commands)
    (writeAnswers : s.writeAnswers = t.writeAnswers) (readAnswers : s.readAnswers = t.readAnswers)
    (txns : s.txns = t.txns) (outcomes : s.outcomes = t.outcomes) : s = t := by
  cases s
  cases t
  simp_all

end Sys2Proof.Machine
end

