-- ==== Sys2Proof/Laws/Ops.lean ====
section
/-! SUPPORT. What each shared operation can do, said once. -/

namespace Sys2Proof.Machine

/-! ### The end of an operation and the gate -/

@[simp] theorem finish_ok (v : Value) (s : State) : finish (.ok v, s) = s.reply (.ok v) := rfl

@[simp] theorem finish_raise (e : OpError) (s : State) : finish (.raise e, s) = s.reply (.raise e) := rfl

/-- An operation that faults on a state with no fault recorded records the fault. -/
theorem finish_fault {s : State} (f : Fault) (h : s.fault = none) :
    finish (.fault f, s) = s.faultedBy f := by
  simp [finish, State.faultedBy, h]

/-- An operation that is refused on a state with no refusal recorded records the refusal. -/
theorem finish_refuse {s : State} (x : Refusal) (h : s.refused = none) :
    finish (.refuse x, s) = s.refusedBy x := by
  simp [finish, State.refusedBy, h]

/-- The end of an operation changes the outcomes, `fault` and `refused` alone. -/
theorem finish_frame (r : OpOutcome Value × State) :
    (finish r).dev = r.2.dev ∧ (finish r).ch = r.2.ch ∧ (finish r).commands = r.2.commands ∧
      (finish r).writeAnswers = r.2.writeAnswers ∧ (finish r).readAnswers = r.2.readAnswers ∧
      (finish r).txns = r.2.txns ∧ (finish r).outcomes = r.1 :: r.2.outcomes := by
  obtain ⟨o, s⟩ := r
  cases o <;> simp [finish]

theorem gate_of_running {s : State} (h : s.Running) (k : Host.Outcome State Fault Refusal) :
    gate s k = k := by
  obtain ⟨hf, hr⟩ := h
  simp [gate, hf, hr]

theorem gate_of_fault {s : State} {f : Fault} (h : s.fault = some f)
    (k : Host.Outcome State Fault Refusal) : gate s k = .fault f := by
  simp [gate, h]

theorem gate_of_refused {s : State} {x : Refusal} (hf : s.fault = none) (h : s.refused = some x)
    (k : Host.Outcome State Fault Refusal) : gate s k = .refused x := by
  simp [gate, hf, h]

/-- Where the gate answers a next state, the block is running and the answer is what stands behind the gate. -/
theorem gate_next {s t : State} {k : Host.Outcome State Fault Refusal} (h : gate s k = .next t) :
    s.Running ∧ k = .next t := by
  unfold gate at h
  split at h
  · cases h
  · cases h
  · exact ⟨⟨‹_›, ‹_›⟩, h⟩

theorem operate_of_running {s : State} (h : s.Running) (op : State → OpOutcome Value × State) :
    operate s op = .next (finish (op s)) := gate_of_running h _

/-- Where an operation answers a next state, the block is running and the state is the operation's end. -/
theorem operate_next {s t : State} {op : State → OpOutcome Value × State} (h : operate s op = .next t) :
    s.Running ∧ t = finish (op s) := by
  obtain ⟨hr, hk⟩ := gate_next h
  cases hk
  exact ⟨hr, rfl⟩

theorem compute_of_running {s : State} (h : s.Running) (r : OpOutcome Value) :
    compute s r = .next (finish (r, s)) := operate_of_running h _

theorem compute_next {s t : State} {r : OpOutcome Value} (h : compute s r = .next t) :
    s.Running ∧ t = finish (r, s) := operate_next h

/-- A channel operation on a handle that names a context. -/
theorem operateOn_of_running {s : State} {h : Nat} {c : Channel} (hs : s.Running) (hc : s.ch[h]? = some c)
    (op : Channel → State → OpOutcome Value × State) : operateOn h s op = .next (finish (op c s)) := by
  simp [operateOn, operate_of_running hs, hc]

/-- A channel operation on a handle that names none (R216). -/
theorem operateOn_badHandle {s : State} {h : Nat} (hs : s.Running) (hc : s.ch[h]? = none)
    (op : Channel → State → OpOutcome Value × State) : operateOn h s op = .next (s.refusedBy (.badHandle h)) := by
  simp [operateOn, operate_of_running hs, hc, finish_refuse _ hs.2]

/-- Where a channel operation answers a next state, the handle was refused or named the context operated on. -/
theorem operateOn_next {s t : State} {h : Nat} {op : Channel → State → OpOutcome Value × State}
    (he : operateOn h s op = .next t) :
    s.Running ∧
      ((s.ch[h]? = none ∧ t = s.refusedBy (.badHandle h)) ∨
        ∃ c, s.ch[h]? = some c ∧ t = finish (op c s)) := by
  obtain ⟨hr, rfl⟩ := operate_next he
  refine ⟨hr, ?_⟩
  cases hc : s.ch[h]? with
  | none => exact .inl ⟨rfl, finish_refuse _ hr.2⟩
  | some c => exact .inr ⟨c, rfl, rfl⟩

/-! ### The bus -/

/-- A `BusWrite` to the device's address: its answer, and the state it leaves. -/
theorem busWrite_eq (byte : Byte) (s : State) :
    busWrite s.dev.address byte s = (s.nextWriteAnswer, s.wrote byte) := rfl

/-- A `BusRead` from the device's address: its frame, and the state it leaves. -/
theorem busRead_eq (cmd : Byte) (s : State) :
    busRead s.dev.address cmd s = (readFrame? s.nextReadAnswer, s.didRead cmd) := rfl

theorem nextWriteAnswer_cons {s : State} {a : WriteAnswer} {l : List WriteAnswer}
    (h : s.writeAnswers = a :: l) : s.nextWriteAnswer = a := by
  simp [State.nextWriteAnswer, h]

theorem nextReadAnswer_cons {s : State} {a : ReadAnswer} {l : List ReadAnswer}
    (h : s.readAnswers = a :: l) : s.nextReadAnswer = a := by
  simp [State.nextReadAnswer, h]

/-! ### The device operations -/

/-- The decoder gives a code or `ConversionNotReady`, as the ready bit says (R130). -/
theorem decodeFrame_cases (f : Frame) (r : Rate) :
    (statusReady f.b2 = true ∧ decodeFrame f r = .ok (signedCode (dataField f r) (rateMaxCode r))) ∨
      (statusReady f.b2 = false ∧ decodeFrame f r = .raise .conversionNotReady) := by
  unfold decodeFrame
  cases statusReady f.b2 <;> simp

/-- `INITIATE` writes once; it caches the byte when the write was answered `Ok`, and raises `BusError` when not
(R150). -/
theorem initiateDevice_cases (w : Byte) (s : State) :
    (s.nextWriteAnswer = .ok ∧
        initiateDevice w s = (.ok (), (s.wrote (setStart w)).setLastConfig (clearStart w))) ∨
      (s.nextWriteAnswer = .transportError ∧
        initiateDevice w s = (.raise (.busError .write), s.wrote (setStart w))) := by
  unfold initiateDevice
  rw [busWrite_eq]
  cases h : s.nextWriteAnswer
  · exact .inl ⟨rfl, rfl⟩
  · exact .inr ⟨rfl, rfl⟩

/-- `GET_CONV` ends in the 18-bit refusal, the error of the rate, the fault of the unwritten cache, or after one
read in `BusError` or the decoder's outcome (R151). -/
theorem getConversion_cases (rate : Rat) (s : State) :
    (rate = rate3p75 ∧ getConversion rate s = (.refuse .unsupported18Bit, s)) ∨
      ((∀ r : Rate, rateSettable r = true → rate ≠ rateSps r) ∧ rate ≠ rate3p75 ∧
        getConversion rate s = (.raise (.invalidArgument .rate (.rat rate)), s)) ∨
      ∃ r : Rate, rate = rateSps r ∧ rateSettable r = true ∧
        ((s.dev.lastConfig = .unwritten ∧ getConversion rate s = (.fault .unwrittenLastConfig, s)) ∨
          ∃ cmd, s.dev.lastConfig = .byte cmd ∧
            ((readFrame? s.nextReadAnswer = none ∧
                getConversion rate s = (.raise (.busError .read), s.didRead cmd)) ∨
              ∃ f, readFrame? s.nextReadAnswer = some f ∧
                getConversion rate s = (decodeFrame f r, s.didRead cmd))) := by
  unfold getConversion
  obtain ⟨h, hw⟩ | ⟨h, hw⟩ := checkWidth_cases rate
  · exact .inl ⟨h, by rw [hw]; rfl⟩
  · obtain ⟨r, hr, hs, hc⟩ | ⟨hr, hc⟩ := checkRate_cases rate
    · refine .inr (.inr ⟨r, hr, hs, ?_⟩)
      rw [hw, hc]
      cases hl : s.dev.lastConfig with
      | unwritten => exact .inl ⟨rfl, by simp⟩
      | byte cmd =>
        refine .inr ⟨cmd, rfl, ?_⟩
        cases hf : readFrame? s.nextReadAnswer with
        | none => exact .inl ⟨rfl, by simp [busRead_eq, hf]⟩
        | some f => exact .inr ⟨f, rfl, by simp [busRead_eq, hf]⟩
    · exact .inr (.inl ⟨hr, h, by rw [hw, hc]; rfl⟩)

/-- `ACTIVE_CHAN` faults on an unwritten cache and else reads the mux field (R152). -/
theorem activeChannel_cases (s : State) :
    (s.dev.lastConfig = .unwritten ∧ activeChannel s = .fault .unwrittenLastConfig) ∨
      ∃ w, s.dev.lastConfig = .byte w ∧ activeChannel s = .ok (muxField w) := by
  unfold activeChannel
  cases h : s.dev.lastConfig with
  | unwritten => exact .inl ⟨rfl, rfl⟩
  | byte w => exact .inr ⟨w, rfl, rfl⟩

/-- `GET_RAW` on a context is `GET_CONV` at its rate; a code makes the phase `Idle`, and anything else leaves what
`GET_CONV` left (R173). -/
theorem getRawCode_cases (h : Nat) (c : Channel) (s : State) :
    (∃ code, (getConversion (rateSps c.sampleRate) s).1 = .ok code ∧
        getRawCode h c s =
          (.ok code, (getConversion (rateSps c.sampleRate) s).2.setChannel h { c with phase := .idle })) ∨
      ((∀ code, (getConversion (rateSps c.sampleRate) s).1 ≠ .ok code) ∧
        getRawCode h c s = getConversion (rateSps c.sampleRate) s) := by
  unfold getRawCode
  cases hg : getConversion (rateSps c.sampleRate) s with
  | mk o s1 =>
    cases o with
    | ok code => exact .inl ⟨code, rfl, rfl⟩
    | raise e => exact .inr ⟨by simp, rfl⟩
    | fault f => exact .inr ⟨by simp, rfl⟩
    | refuse x => exact .inr ⟨by simp, rfl⟩

/-! ### The step -/

/-- Where a step answers a next state: the block was idle, or the next command was executed, or its opcode was
refused (R70, R74). -/
theorem step_next {s t : State} (h : step s = .next t) :
    s.Running ∧
      ((s.commands = [] ∧ t = s) ∨
        ∃ c rest, s.commands = c :: rest ∧
          ((∃ i, Sys2Proof.decode c = .ok i ∧ exec i { s with commands := rest } = .next t) ∨
            ∃ op, Sys2Proof.decode c = .error (.illegalOpcode op) ∧
              t = { s with commands := rest }.refusedBy (.illegalOpcode op))) := by
  obtain ⟨hr, hk⟩ := gate_next h
  refine ⟨hr, ?_⟩
  cases hc : s.commands with
  | nil =>
    simp only [fetch, hc] at hk
    cases hk
    exact .inl ⟨rfl, rfl⟩
  | cons c rest =>
    refine .inr ⟨c, rest, rfl, ?_⟩
    simp only [fetch, hc] at hk
    cases hd : Sys2Proof.decode c with
    | ok i => exact .inl ⟨i, rfl, by simpa [hd] using hk⟩
    | error e =>
      cases e with
      | illegalOpcode op =>
        refine .inr ⟨op, rfl, ?_⟩
        simp only [hd, refuseCommand, Host.Outcome.next.injEq] at hk
        rw [← hk]
        exact finish_refuse _ hr.2

end Sys2Proof.Machine
end

