-- ==== Sys2Proof/Laws/Caller.lean ====
section
/-! SUPPORT. What a line of the caller's can do, said once. -/

namespace Sys2Proof.Machine

/-- A value stands where an operand of its own type stands. -/
@[simp] theorem operandAsType_self (o : Operand) : operandAsType o.type o = some o := by simp [operandAsType]

/-- Operands of the types that stand there are taken as they are. -/
theorem resolveOperands_of_types {env : Env} {args : List Arg} {operands : List Operand}
    (h : args.mapM (Arg.resolve env) = some operands) :
    resolveOperands env (operands.map Operand.type) args = some operands := by
  induction args generalizing operands with
  | nil => cases h; rfl
  | cons a rest ih =>
    simp only [List.mapM_cons, Option.bind_eq_bind, Option.pure_def, Option.bind_eq_some_iff,
      Option.some.injEq] at h
    obtain ⟨o, ha, os, hos, rfl⟩ := h
    simp [resolveOperands, ha, ih hos]

/-- A line whose operands are written as those of the operation `i` stands for its command. -/
theorem commandOf?_of_operands {env : Env} {args : List Arg} {i : Instr}
    (h : args.mapM (Arg.resolve env) = some i.operands) : commandOf? env i.op args = some (encode i) := by
  have types : i.op.operandTypes = i.operands.map Operand.type := by cases i <;> rfl
  simp only [commandOf?, types, resolveOperands_of_types h, Option.bind_some, commandOfOperands?]
  exact dif_pos (encode i).fits

/-- A line with a name that is bound to nothing stands for no command. -/
theorem commandOf?_of_unbound {env : Env} {op : Op} {args : List Arg}
    (h : args.mapM (Arg.resolve env) = none) : commandOf? env op args = none := by
  suffices ∀ tys, resolveOperands env tys args = none by simp [commandOf?, this]
  induction args with
  | nil => cases h
  | cons a rest ih =>
    rintro (_ | ⟨ty, tys⟩)
    · rfl
    · cases ha : a.resolve env with
      | none => simp [resolveOperands, ha]
      | some o =>
        have hr : rest.mapM (Arg.resolve env) = none := by
          cases hm : rest.mapM (Arg.resolve env) with
          | none => rfl
          | some os => simp [ha, hm] at h
        simp [resolveOperands, ha, ih hr tys]

/-- A line that is issued runs its operation, and its names are bound to the outcome returned. -/
theorem runLine_of_exec {s t : State} {env : Env} {binds : List String} {args : List Arg} {i : Instr}
    (hs : s.Running) (ha : args.mapM (Arg.resolve env) = some i.operands) (he : exec i s = .next t) :
    runLine (.command binds i.op args) env s = .next (bindOutcome env binds t.outcomes.head?, t) := by
  have hd : Sys2Proof.decode (encode i) = .ok i := (decode_eq_ok_iff _ _).mpr ⟨rfl, rfl⟩
  have hstep : step (s.issue (encode i)) = .next t := by
    have hr : (s.issue (encode i)).Running := hs
    rw [step, gate_of_running hr]
    simpa only [fetch, State.issue, hd] using he
  simp [runLine, commandOf?_of_operands ha, hstep]

/-- A line that is not issued leaves the block as it is and its names bound to nothing. -/
theorem runLine_of_unbound {s : State} {env : Env} {binds : List String} {op : Op} {args : List Arg}
    (h : args.mapM (Arg.resolve env) = none) :
    runLine (.command binds op args) env s = .next (env.filter fun p => !binds.contains p.1, s) := by
  simp [runLine, commandOf?_of_unbound h]

end Sys2Proof.Machine
end

