-- ==== Sys2Proof/Laws/Exec.lean ====
section
/-! SUPPORT. Everything an operation can do, said once: the inversion of `exec`. -/

namespace Sys2Proof.Machine

/-- The three operations that read a result over the bus (R41). -/
def ReadsBus (i : Instr) : Prop := (∃ rate, i = .getConv rate) ∨ ∃ h, i = .getRaw h ∨ i = .getVolts h

/-- The five operations that read `dev.last_config` (R215). -/
def ReadsCache (i : Instr) : Prop :=
  (∃ rate, i = .getConv rate) ∨ i = .activeChan ∨ ∃ h, i = .getRaw h ∨ i = .getVolts h ∨ i = .isActive h

/-- `Effect s i o u`: operation `i`, behind the gate on `s`, ends in the outcome `o` with the state `u`, before the
outcome is returned and recorded. -/
inductive Effect (s : State) : Instr → OpOutcome Value → State → Prop where
  /-- Nothing but an outcome; a fault, a refusal or `ConversionNotReady` only where it has its cause. -/
  | none {i o} (notInitiate : ∀ w, i ≠ .initiate w) (notStart : ∀ h, h < s.ch.length → i ≠ .start h)
      (fault : ∀ f, o = .fault f → s.dev.lastConfig = .unwritten ∧ ReadsCache i)
      (notReady : o = .raise .conversionNotReady →
        ∃ b0 b1 b2 rate, b2.getLsbD 7 = true ∧ i = .decode b0 b1 b2 rate)
      (refuse : ∀ x, o = .refuse x → x = .unsupported18Bit ∨ ∃ h, x = .badHandle h ∧ s.ch.length ≤ h) :
      Effect s i o s
  /-- `CONFIGURE` with every check passed (R170). -/
  | configure {h c} {gain : Int} {rate b g r} (context : s.ch[h]? = some c) (gain_eq : gain = gainValue g)
      (rate_eq : rate = rateSps r) (settable : rateSettable r = true) :
      Effect s (.configure h gain rate b) (.ok .unit)
        (s.setChannel h { c with gain := g, sampleRate := r, continuous := b })
  /-- `INITIATE`, the write answered `Ok` (R150). -/
  | initiate {w} (answer : s.nextWriteAnswer = .ok) :
      Effect s (.initiate w) (.ok .unit) ((s.wrote (setStart w)).setLastConfig (clearStart w))
  /-- `INITIATE`, the write failed (R150). -/
  | initiateFailed {w} (answer : s.nextWriteAnswer = .transportError) :
      Effect s (.initiate w) (.raise (.busError .write)) (s.wrote (setStart w))
  /-- `START`, the write answered `Ok` (R171). -/
  | start {h c} (context : s.ch[h]? = some c) (answer : s.nextWriteAnswer = .ok) :
      Effect s (.start h) (.ok .unit)
        (((s.wrote (setStart (configByte c))).setLastConfig (clearStart (configByte c))).setChannel h
          { c with phase := .awaiting })
  /-- `START`, the write failed (R171). -/
  | startFailed {h c} (context : s.ch[h]? = some c) (answer : s.nextWriteAnswer = .transportError) :
      Effect s (.start h) (.raise (.busError .write)) (s.wrote (setStart (configByte c)))
  /-- A read that failed (R151). -/
  | readFailed {i cmd} (cached : s.dev.lastConfig = .byte cmd) (reads : ReadsBus i) :
      Effect s i (.raise (.busError .read)) (s.didRead cmd)
  /-- A read whose status byte says not ready (R151, R212). -/
  | readNotReady {i cmd b0 b1 b2} (cached : s.dev.lastConfig = .byte cmd)
      (answer : s.nextReadAnswer = .bytes [b0, b1, b2]) (ready : b2.getLsbD 7 = true) (reads : ReadsBus i) :
      Effect s i (.raise .conversionNotReady) (s.didRead cmd)
  /-- `GET_CONV` with a code (R151). -/
  | getConv {cmd rate code} (cached : s.dev.lastConfig = .byte cmd) :
      Effect s (.getConv rate) (.ok (.code code)) (s.didRead cmd)
  /-- `GET_RAW` with a code (R173). -/
  | getRaw {h c cmd code} (context : s.ch[h]? = some c) (cached : s.dev.lastConfig = .byte cmd) :
      Effect s (.getRaw h) (.ok (.code code)) ((s.didRead cmd).setChannel h { c with phase := .idle })
  /-- `GET_VOLTS` with a value (R174). -/
  | getVolts {h c cmd v} (context : s.ch[h]? = some c) (cached : s.dev.lastConfig = .byte cmd) :
      Effect s (.getVolts h) (.ok (.volts v)) ((s.didRead cmd).setChannel h { c with phase := .idle })

/-- A frame is three bytes (R44). -/
theorem readFrame?_eq_some {a : ReadAnswer} {f : Frame} (h : readFrame? a = some f) :
    a = .bytes [f.b0, f.b1, f.b2] := by
  unfold readFrame? at h
  split at h
  · cases h
    rfl
  · cases h
  · cases h

/-- An outcome that is a result, an `InvalidArgument` or the 18-bit refusal needs no cause. -/
theorem Effect.pure {s : State} {i : Instr} {o : OpOutcome Value} (notInitiate : ∀ w, i ≠ .initiate w)
    (notStart : ∀ h, h < s.ch.length → i ≠ .start h)
    (plain : (∃ v, o = .ok v) ∨ (∃ field v, o = .raise (.invalidArgument field v)) ∨
      o = .refuse .unsupported18Bit) : Effect s i o s := by
  refine .none notInitiate notStart ?_ ?_ ?_ <;> rcases plain with ⟨_, rfl⟩ | ⟨_, _, rfl⟩ | rfl <;> simp

/-- What a channel operation on a handle that names no context does (R216). -/
theorem Effect.badHandle {s : State} {i : Instr} {h : Nat} (hc : s.ch[h]? = .none)
    (notInitiate : ∀ w, i ≠ .initiate w) (notOther : ∀ h', h' ≠ h → i ≠ .start h') :
    Effect s i (.refuse (.badHandle h)) s := by
  simp only [List.getElem?_eq_none_iff] at hc
  refine .none notInitiate (fun h' hl => notOther h' ?_) nofun nofun ?_
  · rintro rfl
    omega
  · rintro x hx
    cases hx
    exact .inr ⟨h, rfl, hc⟩

/-- `GET_RAW` and `GET_VOLTS`, whose value `g` is made from the code. -/
theorem getRawCode_effect {s : State} {i : Instr} {h : Nat} {c : Channel} {g : Int → Value}
    (hi : i = .getRaw h ∨ i = .getVolts h)
    (ok : ∀ cmd code, s.dev.lastConfig = .byte cmd →
      Effect s i (.ok (g code)) ((s.didRead cmd).setChannel h { c with phase := .idle })) :
    Effect s i ((getRawCode h c s).1.map g) (getRawCode h c s).2 := by
  have reads : ReadsBus i := .inr ⟨h, hi⟩
  have noInit : ∀ w, i ≠ .initiate w := by rcases hi with rfl | rfl <;> simp
  have noStart : ∀ h, h < s.ch.length → i ≠ .start h := by rcases hi with rfl | rfl <;> simp
  have cache : ReadsCache i := .inr (.inr ⟨h, hi.imp_right .inl⟩)
  have key := getRawCode_cases h c s
  obtain ⟨-, hg⟩ | ⟨-, -, hg⟩ | ⟨r, -, -, ⟨hu, hg⟩ | ⟨cmd, hl, ⟨-, hg⟩ | ⟨f, hf, hg⟩⟩⟩ :=
    getConversion_cases (rateSps c.sampleRate) s <;> rw [hg] at key
  · obtain ⟨_, he, -⟩ | ⟨-, hr⟩ := key
    · cases he
    · exact hr ▸ .pure noInit noStart (.inr (.inr rfl))
  · obtain ⟨_, he, -⟩ | ⟨-, hr⟩ := key
    · cases he
    · exact hr ▸ .pure noInit noStart (.inr (.inl ⟨_, _, rfl⟩))
  · obtain ⟨_, he, -⟩ | ⟨-, hr⟩ := key
    · cases he
    · exact hr ▸ .none noInit noStart (fun _ _ => ⟨hu, cache⟩) nofun nofun
  · obtain ⟨_, he, -⟩ | ⟨-, hr⟩ := key
    · cases he
    · exact hr ▸ .readFailed hl reads
  · obtain ⟨-, hd⟩ | ⟨hb, hd⟩ := decodeFrame_cases f r <;> rw [hd] at key
    · obtain ⟨_, -, hr⟩ | ⟨he, -⟩ := key
      · exact hr ▸ ok cmd _ hl
      · exact absurd rfl (he _)
    · obtain ⟨_, he, -⟩ | ⟨-, hr⟩ := key
      · cases he
      · exact hr ▸ .readNotReady hl (readFrame?_eq_some hf) (by simpa [statusReady] using hb) reads

/-- Where an operation answers a next state, the block was running, and the state is the end of one of its
effects. -/
theorem exec_effect {i : Instr} {s t : State} (he : exec i s = .next t) :
    s.Running ∧ ∃ o u, Effect s i o u ∧ t = finish (o, u) := by
  cases i with
  | setGain w gain =>
    rw [exec, execSetGain] at he
    obtain ⟨hr, ht⟩ := compute_next he
    refine ⟨hr, _, _, .pure (by simp) (by simp) ?_, ht⟩
    obtain ⟨g, -, h⟩ | ⟨-, h⟩ := checkGain_cases gain <;> simp [h, Except.map]
  | setRate w rate =>
    rw [exec, execSetRate] at he
    obtain ⟨hr, ht⟩ := compute_next he
    refine ⟨hr, _, _, .pure (by simp) (by simp) ?_, ht⟩
    obtain ⟨r, -, -, h⟩ | ⟨-, h⟩ := checkRate_cases rate <;> simp [h, Except.map]
  | setCont w b =>
    rw [exec, execSetCont] at he
    obtain ⟨hr, ht⟩ := compute_next he
    exact ⟨hr, _, _, .pure (by simp) (by simp) (.inl ⟨_, rfl⟩), ht⟩
  | setChan w index count =>
    rw [exec, execSetChan] at he
    obtain ⟨hr, ht⟩ := compute_next he
    refine ⟨hr, _, _, .pure (by simp) (by simp) ?_, ht⟩
    obtain ⟨n, -, h⟩ | ⟨-, h⟩ := checkCount_cases count
    · obtain ⟨m, -, -, h'⟩ | ⟨-, h'⟩ := checkChannel_cases n index <;> simp [h, h', Except.map, Except.bind]
    · simp [h, Except.bind]
  | withStart w =>
    rw [exec, execWithStart] at he
    obtain ⟨hr, ht⟩ := compute_next he
    exact ⟨hr, _, _, .pure (by simp) (by simp) (.inl ⟨_, rfl⟩), ht⟩
  | getGain w =>
    rw [exec, execGetGain] at he
    obtain ⟨hr, ht⟩ := compute_next he
    exact ⟨hr, _, _, .pure (by simp) (by simp) (.inl ⟨_, rfl⟩), ht⟩
  | getRate w =>
    rw [exec, execGetRate] at he
    obtain ⟨hr, ht⟩ := compute_next he
    exact ⟨hr, _, _, .pure (by simp) (by simp) (.inl ⟨_, rfl⟩), ht⟩
  | getCont w =>
    rw [exec, execGetCont] at he
    obtain ⟨hr, ht⟩ := compute_next he
    exact ⟨hr, _, _, .pure (by simp) (by simp) (.inl ⟨_, rfl⟩), ht⟩
  | getChan w =>
    rw [exec, execGetChan] at he
    obtain ⟨hr, ht⟩ := compute_next he
    exact ⟨hr, _, _, .pure (by simp) (by simp) (.inl ⟨_, rfl⟩), ht⟩
  | decode b0 b1 b2 rate =>
    rw [exec, execDecode] at he
    obtain ⟨hr, ht⟩ := compute_next he
    refine ⟨hr, _, _, ?_, ht⟩
    obtain ⟨-, h⟩ | ⟨-, h⟩ := checkWidth_cases rate <;> rw [h]
    · exact .pure (by simp) (by simp) (by simp)
    · obtain ⟨r, -, -, h'⟩ | ⟨-, h'⟩ := checkRate_cases rate <;> rw [h']
      · obtain ⟨-, hd⟩ | ⟨hb, hd⟩ := decodeFrame_cases ⟨b0, b1, b2⟩ r
        · exact .pure (by simp) (by simp) (by simp [hd])
        · refine .none (by simp) (by simp) (by simp [hd]) (fun _ => ⟨b0, b1, b2, rate, ?_, rfl⟩) (by simp [hd])
          simpa [statusReady] using hb
      · exact .pure (by simp) (by simp) (by simp)
  | initiate w =>
    rw [exec, execInitiate] at he
    obtain ⟨hr, ht⟩ := operate_next he
    refine ⟨hr, _, _, ?_, ht⟩
    obtain ⟨ha, h⟩ | ⟨ha, h⟩ := initiateDevice_cases w s <;> rw [h]
    · exact .initiate ha
    · exact .initiateFailed ha
  | getConv rate =>
    rw [exec, execGetConv] at he
    obtain ⟨hr, ht⟩ := operate_next he
    refine ⟨hr, _, _, ?_, ht⟩
    obtain ⟨-, h⟩ | ⟨-, -, h⟩ | ⟨r, -, -, ⟨hu, h⟩ | ⟨cmd, hl, ⟨-, h⟩ | ⟨f, hf, h⟩⟩⟩ :=
      getConversion_cases rate s <;> rw [h]
    · exact .pure (by simp) (by simp) (by simp)
    · exact .pure (by simp) (by simp) (by simp)
    · exact .none (by simp) (by simp) (fun _ _ => ⟨hu, .inl ⟨_, rfl⟩⟩) nofun nofun
    · exact .readFailed hl (.inl ⟨_, rfl⟩)
    · obtain ⟨-, hd⟩ | ⟨hb, hd⟩ := decodeFrame_cases f r <;> rw [hd]
      · exact .getConv hl
      · exact .readNotReady hl (readFrame?_eq_some hf) (by simpa [statusReady] using hb) (.inl ⟨_, rfl⟩)
  | activeChan =>
    rw [exec, execActiveChan] at he
    obtain ⟨hr, ht⟩ := operate_next he
    refine ⟨hr, _, _, ?_, ht⟩
    obtain ⟨hu, h⟩ | ⟨w, -, h⟩ := activeChannel_cases s
    · exact .none (by simp) (by simp) (fun _ _ => ⟨hu, .inr (.inl rfl)⟩) (by simp [h]) (by simp [h])
    · exact .pure (by simp) (by simp) (by simp [h])
  | validateChan index =>
    rw [exec, execValidateChan] at he
    obtain ⟨hr, ht⟩ := operate_next he
    refine ⟨hr, _, _, .pure (by simp) (by simp) ?_, ht⟩
    obtain ⟨m, -, -, h⟩ | ⟨-, h⟩ := checkChannel_cases s.dev.channelCount index <;> simp [h, Except.map]
  | configure h gain rate b =>
    rw [exec, execConfigure] at he
    obtain ⟨hr, ⟨hc, ht⟩ | ⟨c, hc, ht⟩⟩ := operateOn_next he
    · exact ⟨hr, _, _, .badHandle hc (by simp) (by simp), by rw [finish_refuse _ hr.2]; exact ht⟩
    · refine ⟨hr, _, _, ?_, ht⟩
      obtain ⟨g, hg, h1⟩ | ⟨-, h1⟩ := checkGain_cases gain <;> rw [h1]
      · obtain ⟨r, hq, hs, h2⟩ | ⟨-, h2⟩ := checkRate_cases rate <;> rw [h2]
        · exact .configure hc hg hq hs
        · exact .pure (by simp) (by simp) (by simp)
      · exact .pure (by simp) (by simp) (by simp)
  | start h =>
    rw [exec, execStart] at he
    obtain ⟨hr, ⟨hc, ht⟩ | ⟨c, hc, ht⟩⟩ := operateOn_next he
    · refine ⟨hr, _, _, .badHandle (h := h) hc (by simp) ?_, by rw [finish_refuse _ hr.2]; exact ht⟩
      intro h' hn
      simpa using hn.symm
    · refine ⟨hr, _, _, ?_, ht⟩
      obtain ⟨ha, h'⟩ | ⟨ha, h'⟩ := initiateDevice_cases (configByte c) s <;> rw [h']
      · exact .start hc ha
      · exact .startFailed hc ha
  | convTime h =>
    rw [exec, execConvTime] at he
    obtain ⟨hr, ⟨hc, ht⟩ | ⟨c, hc, ht⟩⟩ := operateOn_next he
    · exact ⟨hr, _, _, .badHandle hc (by simp) (by simp), by rw [finish_refuse _ hr.2]; exact ht⟩
    · exact ⟨hr, _, _, .pure (by simp) (by simp) (by simp), ht⟩
  | getRaw h =>
    rw [exec, execGetRaw] at he
    obtain ⟨hr, ⟨hc, ht⟩ | ⟨c, hc, ht⟩⟩ := operateOn_next he
    · exact ⟨hr, _, _, .badHandle hc (by simp) (by simp), by rw [finish_refuse _ hr.2]; exact ht⟩
    · exact ⟨hr, _, _, getRawCode_effect (.inl rfl) fun _ _ hl => .getRaw hc hl, ht⟩
  | getVolts h =>
    rw [exec, execGetVolts] at he
    obtain ⟨hr, ⟨hc, ht⟩ | ⟨c, hc, ht⟩⟩ := operateOn_next he
    · exact ⟨hr, _, _, .badHandle hc (by simp) (by simp), by rw [finish_refuse _ hr.2]; exact ht⟩
    · exact ⟨hr, _, _, getRawCode_effect (.inr rfl) fun _ _ hl => .getVolts hc hl, ht⟩
  | isActive h =>
    rw [exec, execIsActive] at he
    obtain ⟨hr, ⟨hc, ht⟩ | ⟨c, hc, ht⟩⟩ := operateOn_next he
    · exact ⟨hr, _, _, .badHandle hc (by simp) (by simp), by rw [finish_refuse _ hr.2]; exact ht⟩
    · refine ⟨hr, _, _, ?_, ht⟩
      obtain ⟨hu, h'⟩ | ⟨w, -, h'⟩ := activeChannel_cases s
      · exact .none (by simp) (by simp)
          (fun _ _ => ⟨hu, .inr (.inr ⟨h, .inr (.inr rfl)⟩)⟩) (by simp [h']) (by simp [h'])
      · exact .pure (by simp) (by simp) (by simp [h'])
  | chCfg h =>
    rw [exec, execChCfg] at he
    obtain ⟨hr, ⟨hc, ht⟩ | ⟨c, hc, ht⟩⟩ := operateOn_next he
    · exact ⟨hr, _, _, .badHandle hc (by simp) (by simp), by rw [finish_refuse _ hr.2]; exact ht⟩
    · exact ⟨hr, _, _, .pure (by simp) (by simp) (by simp), ht⟩
  | scale raw gain maxCode =>
    rw [exec, execScale] at he
    obtain ⟨hr, ht⟩ := compute_next he
    refine ⟨hr, _, _, .pure (by simp) (by simp) ?_, ht⟩
    split
    · simp
    · obtain ⟨g, -, h1⟩ | ⟨-, h1⟩ := checkGain_cases gain
      · obtain ⟨r, -, -, h2⟩ | ⟨-, h2⟩ := checkMaxCode_cases maxCode <;>
          simp [h1, h2, Except.map, Except.bind]
      · simp [h1, Except.bind]

end Sys2Proof.Machine
end

