-- ==== Sys2Proof/Laws/PerInstr.lean ====
section
/-! SUPPORT. The encoding's form, instruction by instruction: the family EncodedForm. -/

namespace Sys2Proof.Laws

/-- The encoding of an operation: its opcode byte is in the map and names the operation back, and its operands are
the tuple that opcode fixes (30_encoding.md R71, R72). -/
def EncodedForm.Statement (i : Instr) : Prop :=
  Op.ofByte? (encode i).op = some i.op ∧ (encode i).operands.map Operand.type = i.op.operandTypes

theorem EncodedForm.setGain (w : Byte) (gain : Int) :
    EncodedForm.Statement (.setGain w gain) := ⟨rfl, rfl⟩

theorem EncodedForm.setRate (w : Byte) (rate : Rat) :
    EncodedForm.Statement (.setRate w rate) := ⟨rfl, rfl⟩

theorem EncodedForm.setCont (w : Byte) (b : Bool) :
    EncodedForm.Statement (.setCont w b) := ⟨rfl, rfl⟩

theorem EncodedForm.setChan (w : Byte) (index : Int) (count : Int) :
    EncodedForm.Statement (.setChan w index count) := ⟨rfl, rfl⟩

theorem EncodedForm.withStart (w : Byte) :
    EncodedForm.Statement (.withStart w) := ⟨rfl, rfl⟩

theorem EncodedForm.getGain (w : Byte) :
    EncodedForm.Statement (.getGain w) := ⟨rfl, rfl⟩

theorem EncodedForm.getRate (w : Byte) :
    EncodedForm.Statement (.getRate w) := ⟨rfl, rfl⟩

theorem EncodedForm.getCont (w : Byte) :
    EncodedForm.Statement (.getCont w) := ⟨rfl, rfl⟩

theorem EncodedForm.getChan (w : Byte) :
    EncodedForm.Statement (.getChan w) := ⟨rfl, rfl⟩

theorem EncodedForm.decode (b0 : Byte) (b1 : Byte) (b2 : Byte) (rate : Rat) :
    EncodedForm.Statement (.decode b0 b1 b2 rate) := ⟨rfl, rfl⟩

theorem EncodedForm.initiate (w : Byte) :
    EncodedForm.Statement (.initiate w) := ⟨rfl, rfl⟩

theorem EncodedForm.getConv (rate : Rat) :
    EncodedForm.Statement (.getConv rate) := ⟨rfl, rfl⟩

theorem EncodedForm.activeChan :
    EncodedForm.Statement .activeChan := ⟨rfl, rfl⟩

theorem EncodedForm.validateChan (index : Int) :
    EncodedForm.Statement (.validateChan index) := ⟨rfl, rfl⟩

theorem EncodedForm.configure (h : Nat) (gain : Int) (rate : Rat) (b : Bool) :
    EncodedForm.Statement (.configure h gain rate b) := ⟨rfl, rfl⟩

theorem EncodedForm.start (h : Nat) :
    EncodedForm.Statement (.start h) := ⟨rfl, rfl⟩

theorem EncodedForm.convTime (h : Nat) :
    EncodedForm.Statement (.convTime h) := ⟨rfl, rfl⟩

theorem EncodedForm.getRaw (h : Nat) :
    EncodedForm.Statement (.getRaw h) := ⟨rfl, rfl⟩

theorem EncodedForm.getVolts (h : Nat) :
    EncodedForm.Statement (.getVolts h) := ⟨rfl, rfl⟩

theorem EncodedForm.isActive (h : Nat) :
    EncodedForm.Statement (.isActive h) := ⟨rfl, rfl⟩

theorem EncodedForm.chCfg (h : Nat) :
    EncodedForm.Statement (.chCfg h) := ⟨rfl, rfl⟩

theorem EncodedForm.scale (raw : Int) (gain : Int) (maxCode : Int) :
    EncodedForm.Statement (.scale raw gain maxCode) := ⟨rfl, rfl⟩

end Sys2Proof.Laws
end

