-- ==== Sys2Proof/Machine/Assembler.lean ====
section
/-! DEFINITION. The caller's syntax as text (30_encoding.md R76): one line of characters to the line or the
pseudo-instruction it writes. -/

namespace Sys2Proof.Machine

/-- A line of text read: a line, or a pseudo-instruction to expand (R77). -/
inductive Source where
  | line (l : Line)
  | pseudo (p : Pseudo)
  deriving DecidableEq, Repr

/-- Drop the blanks at both ends. -/
def trimBlanks (t : List Char) : List Char :=
  ((t.dropWhile (· == ' ')).reverse.dropWhile (· == ' ')).reverse

/-- The pieces of a text between the characters `sep`. -/
def splitAtChar (sep : Char) : List Char → List (List Char)
  | [] => [[]]
  | c :: rest =>
    match splitAtChar sep rest with
    | [] => [[c]]
    | p :: ps => if c == sep then [] :: p :: ps else (c :: p) :: ps

/-- The text before and after the first `:=`, if there is one. -/
def splitAssign : List Char → Option (List Char × List Char)
  | ':' :: '=' :: rest => some ([], rest)
  | [] => none
  | c :: rest => (splitAssign rest).map fun p => (c :: p.1, p.2)

/-- The value of a digit in a base up to 16. -/
def digitValue (base : Nat) (c : Char) : Option Nat :=
  let v :=
    if '0' ≤ c ∧ c ≤ '9' then some (c.toNat - '0'.toNat)
    else if 'a' ≤ c ∧ c ≤ 'f' then some (c.toNat - 'a'.toNat + 10)
    else if 'A' ≤ c ∧ c ≤ 'F' then some (c.toNat - 'A'.toNat + 10)
    else none
  v.bind fun d => if d < base then some d else none

/-- The number that digits write; none for no digit or a character that is none. -/
def digitsValue (base : Nat) : List Char → Option Nat
  | [] => none
  | t => t.foldlM (fun n c => (digitValue base c).map (n * base + ·)) 0

/-- A natural number: decimal, or `0x` and hexadecimal digits, as R76 writes bytes. That any number of digits and both
cases of letters are read is a DESIGN CHOICE (notes/assumptions/10.md). -/
def parseNat (t : List Char) : Option Nat :=
  match t with
  | '0' :: 'x' :: rest => digitsValue 16 rest
  | _ => digitsValue 10 t

/-- An integer: a natural number with or without a minus sign. R76 gives integers no literal form: that one is decimal
or `0x` hexadecimal, like a byte, and signed, is a DESIGN CHOICE (notes/assumptions/10.md). -/
def parseInt (t : List Char) : Option Int :=
  match t with
  | '-' :: rest => (parseNat rest).map fun n => -(n : Int)
  | _ => (parseNat t).map fun n => (n : Int)

/-- A non-negative rational written as a decimal (R73, R76), such as 3.75. -/
def parseRat (t : List Char) : Option Rat :=
  match splitAtChar '.' t with
  | [whole] => (digitsValue 10 whole).map fun n => (n : Rat)
  | [whole, frac] =>
    (digitsValue 10 whole).bind fun n =>
      (digitsValue 10 frac).map fun f => mkRat (n * 10 ^ frac.length + f : Nat) (10 ^ frac.length)
  | _ => none

/-- A name of the caller's: a letter, then letters, digits and underscores. -/
def parseName (t : List Char) : Option String :=
  match t with
  | c :: rest =>
    if c.isAlpha ∧ rest.all (fun d => d.isAlphanum || d == '_') then some (String.ofList t) else none
  | [] => none

/-- A literal of a type (R73, R76). R76 gives forms for bytes, rationals and Booleans only: the forms of an integer
(`parseInt`) and of a handle, decimal digits alone, are a DESIGN CHOICE (notes/assumptions/10.md). -/
def parseLiteral (ty : OperandType) (t : List Char) : Option Operand :=
  match ty with
  | .byte => (parseNat t).bind fun n => if n < 256 then some (.byte (BitVec.ofNat 8 n)) else none
  | .int => (parseInt t).map .int
  | .rat => (parseRat t).map .rat
  | .bool =>
    if t = "true".toList then some (.bool true)
    else if t = "false".toList then some (.bool false)
    else none
  | .handle => (digitsValue 10 t).map .handle

/-- An operand where one of type `ty` stands: a literal of that type, else a name (R76). -/
def parseArg (ty : OperandType) (t : List Char) : Option Arg :=
  match parseLiteral ty t with
  | some o => some (.lit o)
  | none => (parseName t).map .name

/-- The operands of a tuple of types, in order (R72, R76). -/
def parseArgs : List OperandType → List (List Char) → Option (List Arg)
  | [], [] => some []
  | ty :: tys, t :: ts => (parseArg ty (trimBlanks t)).bind fun a => (parseArgs tys ts).map (a :: ·)
  | _, _ => none

/-- The pieces of an operand list: none at all for a blank text. -/
def operandTexts (t : List Char) : List (List Char) :=
  if trimBlanks t = [] then [] else splitAtChar ',' t

/-- Two results for `SET_RATE`, none for a unit result, else one (R72): the most names a line can bind. -/
def resultCount : Op → Nat
  | .setRate => 2
  | .initiate => 0
  | .validateChan => 0
  | .configure => 0
  | .start => 0
  | _ => 1

/-- A line without its `:=` part: a mnemonic or a pseudo-instruction's name, and its operands (R76, R77). -/
def parseBody (binds : List String) (t : List Char) : Option Source :=
  let word := String.ofList (t.takeWhile (· != ' '))
  let texts := operandTexts (t.dropWhile (· != ' '))
  match Op.all.find? (fun o => o.mnemonic == word) with
  | some o =>
    if binds.length ≤ resultCount o then
      (parseArgs o.operandTypes texts).map fun args => .line (.command binds o args)
    else none
  | none =>
    if word = "COMPOSE" then
      match binds, parseArgs [.int, .bool, .rat, .int] texts with
      | [w], some [index, b, rate, gain] => some (.pseudo (.compose w index b rate gain))
      | _, _ => none
    else if word = "READ_VOLTS" then
      match binds, parseArgs [.handle] texts with
      | [], some [h] => some (.pseudo (.readVolts h))
      | _, _ => none
    else if word = "VOLTS_OF" then
      match binds, parseArgs [.int, .int, .rat] texts with
      | [v], some [raw, gain, rate] => some (.pseudo (.voltsOf v raw gain rate))
      | _, _ => none
    else none

/-- A line of the syntax (R76): a comment, `WAIT`, or a command whose results may be bound to names. A comment
may also end a line, as it does in 95_test_vectors.md L3. -/
def parseLine (text : String) : Option Source :=
  let t := trimBlanks text.toList
  match t with
  | ';' :: rest => some (.line (.comment (String.ofList rest)))
  | _ =>
    let code := trimBlanks (t.takeWhile (· != ';'))
    if code = "WAIT".toList then some (.line .wait)
    else
      match splitAssign code with
      | none => parseBody [] code
      | some (left, right) =>
        ((splitAtChar ',' left).mapM fun n => parseName (trimBlanks n)).bind fun binds =>
          parseBody binds (trimBlanks right)

end Sys2Proof.Machine
end

