-- ==== Sys2Proof/Tests/Slice0.lean ====
section
/-! SUPPORT. Tests of the model: expected results are the spec's own (the rule examples, 95_test_vectors.md), and a
witness for the hypotheses of every statement that has some. -/

namespace Sys2Proof.Tests

open Sys2Proof.Machine

/-! ### Small states and readings -/

/-- The outcome a step returned, if it answered a next state. -/
def outcome (o : Host.Outcome State Fault Refusal) : Option (OpOutcome Value) :=
  match o with
  | .next t => t.outcomes.head?
  | .fault _ => none
  | .refused _ => none

/-- The next state of a step, if it answered one. -/
def after (o : Host.Outcome State Fault Refusal) : Option State :=
  match o with
  | .next t => some t
  | .fault _ => none
  | .refused _ => none

/-- The start state S0 (95_test_vectors.md L3) with the cached byte `w`. -/
def cached (w : Byte) : State :=
  { State.reset with dev := { State.reset.dev with lastConfig := .byte w } }

/-- `s` whose next write is answered `a`. -/
def answerWrite (a : WriteAnswer) (s : State) : State := { s with writeAnswers := [a] }

/-- `s` whose next read is answered `a`. -/
def answerRead (a : ReadAnswer) (s : State) : State := { s with readAnswers := [a] }

/-- S0 with another channel count. -/
def withCount (n : ChannelCount) : State :=
  { State.reset with dev := { State.reset.dev with channelCount := n } }

/-- S0 after `START 0` (95_test_vectors.md L2.4). -/
def started0 : State :=
  { cached 0x20 with
    ch := [{ muxIndex := 1, gain := .x1, sampleRate := .sps240, continuous := false, phase := .awaiting },
      { muxIndex := 0, gain := .x2, sampleRate := .sps60, continuous := true, phase := .idle }] }

/-- S0 after `START 1`. -/
def started1 : State :=
  { cached 0x15 with
    ch := [{ muxIndex := 1, gain := .x1, sampleRate := .sps240, continuous := false, phase := .idle },
      { muxIndex := 0, gain := .x2, sampleRate := .sps60, continuous := true, phase := .awaiting }] }

/-! ### Well-formedness: a negative rate is no rate (30_encoding.md R73) -/

theorem test_wf_refuses_negative_rate :
    (Instr.setRate 0 (-15)).wf = false ∧ (Instr.decode 0 0 0 (-15)).wf = false ∧
      (Instr.getConv (-15)).wf = false ∧ (Instr.configure 0 1 (-15) false).wf = false := by decide

theorem test_wf_accepts_invalid_arguments :
    (Instr.setRate 0 0).wf = true ∧ (Instr.setRate 0 30).wf = true ∧ (Instr.setGain 0 (-1)).wf = true ∧
      (Instr.getConv 30).wf = true ∧ (Instr.configure 9 3 30 true).wf = true := by decide

/-- A negative rate runs: it is a rate outside {15, 60, 240} (R102, R151). -/
theorem test_negative_rate_is_invalid_argument :
    outcome (step (State.reset.issue (encode (.setRate 0 (-15))))) =
        some (.raise (.invalidArgument .rate (.rat (-15)))) ∧
      outcome (step (State.reset.issue (encode (.getConv (-15))))) =
        some (.raise (.invalidArgument .rate (.rat (-15)))) := by decide +kernel

/-- There is no command with other operands than its opcode's (R71, R75): too few, too many, another type. -/
theorem test_wrong_operands_make_no_command :
    operandsFit 0x01 [.byte 0] = false ∧ operandsFit 0x22 [.byte 0] = false ∧
      operandsFit 0x01 [.byte 0, .rat 1] = false ∧ operandsFit 0x01 [.byte 0, .int 1] = true := by decide

/-! ### Decoding: the opcode of every operation written out from 30_encoding.md R72 -/

theorem test_decode_set_gain :
    Sys2Proof.decode ⟨0b00000001, [.byte 0b01111100, .int 8], rfl⟩ = .ok (.setGain 0x7C 8) := by rfl

theorem test_decode_set_rate :
    Sys2Proof.decode ⟨0b00000010, [.byte 0b11111111, .rat 60], rfl⟩ = .ok (.setRate 0xFF 60) := by rfl

theorem test_decode_set_cont :
    Sys2Proof.decode ⟨0b00000011, [.byte 0b00001111, .bool true], rfl⟩ = .ok (.setCont 0x0F true) := by rfl

theorem test_decode_set_chan :
    Sys2Proof.decode ⟨0b00000100, [.byte 0b10011111, .int 1, .int 2], rfl⟩ = .ok (.setChan 0x9F 1 2) := by rfl

theorem test_decode_with_start :
    Sys2Proof.decode ⟨0b00000101, [.byte 0b00011011], rfl⟩ = .ok (.withStart 0x1B) := by rfl

theorem test_decode_get_gain :
    Sys2Proof.decode ⟨0b00000110, [.byte 0b01111110], rfl⟩ = .ok (.getGain 0x7E) := by rfl

theorem test_decode_get_rate :
    Sys2Proof.decode ⟨0b00000111, [.byte 0b00001100], rfl⟩ = .ok (.getRate 0x0C) := by rfl

theorem test_decode_get_cont :
    Sys2Proof.decode ⟨0b00001000, [.byte 0b00010000], rfl⟩ = .ok (.getCont 0x10) := by rfl

theorem test_decode_get_chan :
    Sys2Proof.decode ⟨0b00001001, [.byte 0b11100000], rfl⟩ = .ok (.getChan 0xE0) := by rfl

theorem test_decode_decode :
    Sys2Proof.decode ⟨0b00010000, [.byte 0x0A, .byte 0x28, .byte 0x80, .rat 240], rfl⟩ =
      .ok (.decode 0x0A 0x28 0x80 240) := by rfl

theorem test_decode_initiate :
    Sys2Proof.decode ⟨0b00100000, [.byte 0b10011011], rfl⟩ = .ok (.initiate 0x9B) := by rfl

theorem test_decode_get_conv :
    Sys2Proof.decode ⟨0b00100001, [.rat 15], rfl⟩ = .ok (.getConv 15) := by rfl

theorem test_decode_active_chan : Sys2Proof.decode ⟨0b00100010, [], rfl⟩ = .ok .activeChan := by rfl

theorem test_decode_validate_chan :
    Sys2Proof.decode ⟨0b00100011, [.int (-1)], rfl⟩ = .ok (.validateChan (-1)) := by rfl

theorem test_decode_configure :
    Sys2Proof.decode ⟨0b00110000, [.handle 1, .int 8, .rat 15, .bool true], rfl⟩ =
      .ok (.configure 1 8 15 true) := by rfl

theorem test_decode_start : Sys2Proof.decode ⟨0b00110001, [.handle 1], rfl⟩ = .ok (.start 1) := by rfl

theorem test_decode_conv_time : Sys2Proof.decode ⟨0b00110010, [.handle 1], rfl⟩ = .ok (.convTime 1) := by rfl

theorem test_decode_get_raw : Sys2Proof.decode ⟨0b00110011, [.handle 1], rfl⟩ = .ok (.getRaw 1) := by rfl

theorem test_decode_get_volts : Sys2Proof.decode ⟨0b00110100, [.handle 1], rfl⟩ = .ok (.getVolts 1) := by rfl

theorem test_decode_is_active : Sys2Proof.decode ⟨0b00110101, [.handle 1], rfl⟩ = .ok (.isActive 1) := by rfl

theorem test_decode_ch_cfg : Sys2Proof.decode ⟨0b00110110, [.handle 1], rfl⟩ = .ok (.chCfg 1) := by rfl

theorem test_decode_scale :
    Sys2Proof.decode ⟨0b01000000, [.int (-25536), .int 8, .int 32767], rfl⟩ = .ok (.scale (-25536) 8 32767) := by rfl

/-- The gaps of the opcode map (R74). -/
theorem test_decode_illegal_opcodes :
    ∀ w ∈ ([0x00, 0x0A, 0x0F, 0x11, 0x1F, 0x24, 0x2F, 0x37, 0x3F, 0x41, 0xFF] : List Nat),
      Sys2Proof.decode (tableCommand w) = .error (.illegalOpcode (BitVec.ofNat 8 w)) := by decide

/-- No two operations share an opcode (R72). -/
theorem test_opcodes_distinct : (Op.all.map Op.byte).Nodup := by decide

/-- A word of the opcode table is the opcode with zero operands. -/
theorem test_table_words :
    decodeTableWord 8 0x01 = some (.setGain 0 0) ∧ decodeTableWord 8 0x22 = some .activeChan ∧
      decodeTableWord 8 0x30 = some (.configure 0 0 0 false) ∧ decodeTableWord 8 0x41 = none ∧
      decodeTableWord 8 0x101 = none := by decide

/-- The word placed is what the first step after reset runs. -/
theorem test_with_fetch_word :
    outcome (step (State.reset.withFetchWord 8 0x36)) = some (.ok (.word 0x20)) := by decide

/-! ### The codec (95_test_vectors.md L2.1) -/

theorem test_set_gain :
    outcome (exec (.setGain 0x7C 8) State.reset) = some (.ok (.word 0x7F)) ∧
      outcome (exec (.setGain 0xFF 1) State.reset) = some (.ok (.word 0xFC)) ∧
      outcome (exec (.setGain 0x80 2) State.reset) = some (.ok (.word 0x81)) := by decide

theorem test_set_gain_invalid :
    ∀ g ∈ ([0, 3, 16, -1] : List Int),
      outcome (exec (.setGain 0x00 g) State.reset) =
        some (.raise (.invalidArgument .gain (.int g))) := by decide

theorem test_set_rate :
    outcome (exec (.setRate 0x00 15) State.reset) = some (.ok (.wordMaxCode 0x08 32767)) ∧
      outcome (exec (.setRate 0xFF 240) State.reset) = some (.ok (.wordMaxCode 0xF3 2047)) ∧
      outcome (exec (.setRate 0xFF 60) State.reset) = some (.ok (.wordMaxCode 0xF7 8191)) ∧
      outcome (exec (.setRate 0x0C 15) State.reset) = some (.ok (.wordMaxCode 0x08 32767)) := by decide

theorem test_set_rate_invalid :
    ∀ r ∈ ([15 / 4, 30, 0, 481 / 2] : List Rat),
      outcome (exec (.setRate 0x00 r) State.reset) =
        some (.raise (.invalidArgument .rate (.rat r))) := by decide +kernel

theorem test_set_cont :
    outcome (exec (.setCont 0x0F true) State.reset) = some (.ok (.word 0x1F)) ∧
      outcome (exec (.setCont 0xFF false) State.reset) = some (.ok (.word 0xEF)) ∧
      outcome (exec (.setCont 0x90 true) State.reset) = some (.ok (.word 0x90)) := by decide

theorem test_set_chan :
    outcome (exec (.setChan 0x00 3 4) State.reset) = some (.ok (.word 0x60)) ∧
      outcome (exec (.setChan 0xFF 0 1) State.reset) = some (.ok (.word 0x9F)) ∧
      outcome (exec (.setChan 0x9F 1 2) State.reset) = some (.ok (.word 0xBF)) ∧
      outcome (exec (.setChan 0x80 2 4) State.reset) = some (.ok (.word 0xC0)) := by decide

theorem test_set_chan_invalid :
    outcome (exec (.setChan 0x00 2 2) State.reset) =
        some (.raise (.invalidArgument .channel (.int 2))) ∧
      outcome (exec (.setChan 0x00 (-1) 4) State.reset) =
        some (.raise (.invalidArgument .channel (.int (-1)))) ∧
      outcome (exec (.setChan 0x00 4 8) State.reset) =
        some (.raise (.invalidArgument .count (.int 8))) ∧
      outcome (exec (.setChan 0x00 0 3) State.reset) =
        some (.raise (.invalidArgument .count (.int 3))) := by decide

theorem test_with_start :
    outcome (exec (.withStart 0x1B) State.reset) = some (.ok (.word 0x9B)) ∧
      outcome (exec (.withStart 0xC5) State.reset) = some (.ok (.word 0xC5)) := by decide

theorem test_get_gain :
    outcome (exec (.getGain 0x7E) State.reset) = some (.ok (.gain 4)) ∧
      outcome (exec (.getGain 0x03) State.reset) = some (.ok (.gain 8)) := by decide

theorem test_get_rate :
    outcome (exec (.getRate 0xF3) State.reset) = some (.ok (.rate 240)) ∧
      outcome (exec (.getRate 0x04) State.reset) = some (.ok (.rate 60)) ∧
      outcome (exec (.getRate 0x08) State.reset) = some (.ok (.rate 15)) ∧
      outcome (exec (.getRate 0x0C) State.reset) = some (.ok (.rate (15 / 4))) := by decide +kernel

theorem test_get_cont :
    outcome (exec (.getCont 0x10) State.reset) = some (.ok (.bool true)) ∧
      outcome (exec (.getCont 0xEF) State.reset) = some (.ok (.bool false)) := by decide

theorem test_get_chan :
    outcome (exec (.getChan 0x40) State.reset) = some (.ok (.index 2)) ∧
      outcome (exec (.getChan 0xE0) State.reset) = some (.ok (.index 3)) ∧
      outcome (exec (.getChan 0x1F) State.reset) = some (.ok (.index 0)) := by decide

/-- The compositions of L2.1. -/
theorem test_compose :
    compose 1 true .sps15 .x8 = 0x3B ∧ compose 0 true .sps60 .x2 = 0x15 ∧
      compose 2 false .sps60 .x2 = 0x45 ∧ compose 3 true .sps240 .x1 = 0x70 ∧
      compose 0 false .sps240 .x1 = 0x00 := by decide

/-! ### The decoder (L2.2) -/

theorem test_decode_codes :
    outcome (exec (.decode 0x0A 0x28 0x00 240) State.reset) = some (.ok (.code (-1496))) ∧
      outcome (exec (.decode 0x07 0xFF 0x00 240) State.reset) = some (.ok (.code 2047)) ∧
      outcome (exec (.decode 0xF8 0x00 0x00 240) State.reset) = some (.ok (.code (-2048))) ∧
      outcome (exec (.decode 0x12 0x34 0x7F 240) State.reset) = some (.ok (.code 564)) ∧
      outcome (exec (.decode 0x20 0x00 0x00 60) State.reset) = some (.ok (.code (-8192))) ∧
      outcome (exec (.decode 0xFF 0xFF 0x00 60) State.reset) = some (.ok (.code (-1))) ∧
      outcome (exec (.decode 0x9C 0x40 0x00 15) State.reset) = some (.ok (.code (-25536))) := by decide

theorem test_decode_priority :
    outcome (exec (.decode 0x03 0xE8 0xFF 240) State.reset) = some (.raise .conversionNotReady) ∧
      outcome (exec (.decode 0x00 0x00 0x80 30) State.reset) =
        some (.raise (.invalidArgument .rate (.rat 30))) ∧
      outcome (exec (.decode 0x00 0x00 0x80 (15 / 4)) State.reset) = some (.refuse .unsupported18Bit) := by
  decide +kernel

/-! ### The device (L2.3) -/

theorem test_initiate :
    (after (exec (.initiate 0x9B) (answerWrite .ok (cached 0x1B)))).map (fun t => (t.dev.lastConfig, t.txns)) =
        some (.byte 0x1B, [.write 0x68 0x9B]) ∧
      (after (exec (.initiate 0x60) (answerWrite .ok (withCount .one)))).map (fun t => t.dev.lastConfig) =
        some (.byte 0x60) := by decide

theorem test_initiate_fails :
    (after (exec (.initiate 0x60) (answerWrite .transportError (cached 0x1B)))).map
        (fun t => (t.dev.lastConfig, t.txns, t.outcomes)) =
      some (.byte 0x1B, [.write 0x68 0xE0], [.raise (.busError .write)]) := by decide

theorem test_get_conv :
    (after (exec (.getConv 15) (answerRead (.bytes [0x9C, 0x40, 0x08]) (cached 0x08)))).map
        (fun t => (t.txns, t.outcomes)) =
        some ([.read 0x68 0x08 3], [.ok (.code (-25536))]) ∧
      outcome (exec (.getConv 240) (answerRead (.bytes [0x9C, 0x40, 0x08]) (cached 0x08))) =
        some (.ok (.code (-960))) ∧
      outcome (exec (.getConv 15) (answerRead (.bytes [0x9C, 0x40, 0x88]) (cached 0x08))) =
        some (.raise .conversionNotReady) ∧
      outcome (exec (.getConv 15) (answerRead (.bytes [0x9C, 0x40]) (cached 0x08))) =
        some (.raise (.busError .read)) := by decide

theorem test_get_conv_before_the_bus :
    (after (exec (.getConv 30) State.reset)).map (fun t => (t.txns, t.outcomes)) =
        some ([], [.raise (.invalidArgument .rate (.rat 30))]) ∧
      (after (exec (.getConv (15 / 4)) State.reset)).map (fun t => (t.txns, t.refused)) =
        some ([], some .unsupported18Bit) ∧
      (after (exec (.getConv 15) State.reset)).map (fun t => (t.txns, t.fault)) =
        some ([], some .unwrittenLastConfig) := by decide +kernel

theorem test_active_chan :
    outcome (exec .activeChan (cached 0x60)) = some (.ok (.index 3)) ∧
      outcome (exec .activeChan (cached 0x15)) = some (.ok (.index 0)) ∧
      outcome (exec .activeChan State.reset) = some (.fault .unwrittenLastConfig) := by decide

theorem test_validate_chan :
    outcome (exec (.validateChan 3) State.reset) = some (.ok .unit) ∧
      outcome (exec (.validateChan 4) State.reset) = some (.raise (.invalidArgument .channel (.int 4))) ∧
      outcome (exec (.validateChan (-1)) State.reset) =
        some (.raise (.invalidArgument .channel (.int (-1)))) ∧
      outcome (exec (.validateChan 1) (withCount .one)) =
        some (.raise (.invalidArgument .channel (.int 1))) ∧
      outcome (exec (.validateChan 1) (withCount .two)) = some (.ok .unit) := by decide

/-! ### The channels (L2.4) -/

theorem test_configure :
    (after (exec (.configure 0 8 15 true) State.reset)).map (fun t => t.ch[0]?) =
        some (some
          { muxIndex := 1, gain := .x8, sampleRate := .sps15, continuous := true, phase := .idle }) ∧
      (after (exec (.configure 0 8 15 true) State.reset)).map (fun t => t.ch.map configByte) =
        some [0x3B, 0x15] := by decide

theorem test_configure_invalid :
    after (exec (.configure 0 8 30 true) State.reset) =
        some (State.reset.reply (.raise (.invalidArgument .rate (.rat 30)))) ∧
      after (exec (.configure 0 3 30 true) State.reset) =
        some (State.reset.reply (.raise (.invalidArgument .gain (.int 3)))) ∧
      after (exec (.configure 2 1 240 false) State.reset) =
        some (State.reset.refusedBy (.badHandle 2)) := by decide

theorem test_start :
    (after (exec (.start 0) (answerWrite .ok State.reset))).map
        (fun t => (t.dev.lastConfig, t.ch.map Channel.phase, t.txns)) =
        some (.byte 0x20, [.awaiting, .idle], [.write 0x68 0xA0]) ∧
      (after (exec (.start 1) (answerWrite .ok State.reset))).map (fun t => (t.dev.lastConfig, t.txns)) =
        some (.byte 0x15, [.write 0x68 0x95]) := by decide

theorem test_start_fails :
    (after (exec (.start 0) (answerWrite .transportError State.reset))).map
        (fun t => (t.dev.lastConfig, t.ch.map Channel.phase, t.outcomes)) =
      some (.unwritten, [.idle, .idle], [.raise (.busError .write)]) := by decide

theorem test_conv_time :
    outcome (exec (.convTime 0) State.reset) = some (.ok (.seconds (1 / 240))) ∧
      outcome (exec (.convTime 1) State.reset) = some (.ok (.seconds (1 / 60))) := by decide +kernel

theorem test_get_raw :
    (after (exec (.getRaw 0) (answerRead (.bytes [0x0A, 0x28, 0x00]) started0))).map
        (fun t => (t.outcomes, t.ch.map Channel.phase, t.txns)) =
      some ([.ok (.code (-1496))], [.idle, .idle], [.read 0x68 0x20 3]) := by decide

theorem test_get_raw_errors :
    (after (exec (.getRaw 0) (answerRead (.bytes [0x0A, 0x28, 0x80]) started0))).map
        (fun t => (t.outcomes, t.ch.map Channel.phase)) =
        some ([.raise .conversionNotReady], [.awaiting, .idle]) ∧
      (after (exec (.getRaw 0) (answerRead .transportError started0))).map
        (fun t => (t.outcomes, t.ch.map Channel.phase)) =
        some ([.raise (.busError .read)], [.awaiting, .idle]) ∧
      outcome (exec (.getRaw 0) State.reset) = some (.fault .unwrittenLastConfig) := by decide

theorem test_get_volts :
    outcome (exec (.getVolts 0) (answerRead (.bytes [0x03, 0xE8, 0x00]) started0)) =
        some (.ok (.volts (2048 / 2047))) ∧
      outcome (exec (.getVolts 0) (answerRead (.bytes [0x0F, 0xFF, 0x00]) started0)) =
        some (.ok (.volts (-256 / 255875))) ∧
      outcome (exec (.getVolts 1) (answerRead (.bytes [0x20, 0x00, 0x15]) started1)) =
        some (.ok (.volts (-1048576 / 1023875))) ∧
      outcome (exec (.getVolts 1) (answerRead (.bytes [0x00, 0x00, 0x95]) started1)) =
        some (.raise .conversionNotReady) := by decide +kernel

/-- P2, step 10: another context's conversion, decoded and scaled with this context's settings. -/
theorem test_get_volts_of_another_context :
    outcome (exec (.getVolts 1) (answerRead (.bytes [0x07, 0xFF, 0x20]) started0)) =
      some (.ok (.volts (262016 / 1023875))) := by decide +kernel

theorem test_is_active :
    outcome (exec (.isActive 0) started0) = some (.ok (.bool true)) ∧
      outcome (exec (.isActive 1) started0) = some (.ok (.bool false)) ∧
      outcome (exec (.isActive 0) started1) = some (.ok (.bool false)) ∧
      outcome (exec (.isActive 0) State.reset) = some (.fault .unwrittenLastConfig) := by decide

theorem test_ch_cfg :
    outcome (exec (.chCfg 0) State.reset) = some (.ok (.word 0x20)) ∧
      outcome (exec (.chCfg 1) State.reset) = some (.ok (.word 0x15)) := by decide

/-! ### The scaler (L2.5) -/

theorem test_scale :
    outcome (exec (.scale 1000 1 2047) State.reset) = some (.ok (.volts (2048 / 2047))) ∧
      outcome (exec (.scale 1000 8 2047) State.reset) = some (.ok (.volts (256 / 2047))) ∧
      outcome (exec (.scale 0 8 32767) State.reset) = some (.ok (.volts 0)) ∧
      outcome (exec (.scale (-2048) 1 2047) State.reset) = some (.ok (.volts (-524288 / 255875))) ∧
      outcome (exec (.scale (-25536) 8 32767) State.reset) = some (.ok (.volts (-116736 / 585125))) ∧
      outcome (exec (.scale 100000 1 2047) State.reset) = some (.ok (.volts (204800 / 2047))) := by
  decide +kernel

theorem test_scale_priority :
    outcome (exec (.scale 1000 3 131071) State.reset) = some (.refuse .unsupported18Bit) ∧
      outcome (exec (.scale 1000 3 4095) State.reset) = some (.raise (.invalidArgument .gain (.int 3))) ∧
      outcome (exec (.scale 1000 1 4095) State.reset) =
        some (.raise (.invalidArgument .maxCode (.int 4095))) := by decide

/-! ### The gate (L2.6), building (L2.7) and the caller (L3) -/

theorem test_gate :
    after (step (State.reset.issue ⟨0x41, [], rfl⟩)) = some (State.reset.refusedBy (.illegalOpcode 0x41)) ∧
      after (step ((State.reset.refusedBy (.badHandle 2)).issue (encode (.setGain 0 1)))) = none ∧
      after (step ((State.reset.faultedBy .unwrittenLastConfig).issue (encode (.start 0)))) = none := by decide

theorem test_build :
    build Config.build = .ok State.reset ∧
      build { Config.build with channelCount := 3 } = .error (.channelCount 3) ∧
      build { Config.build with devAddress := 128 } = .error (.devAddress 128) ∧
      build { Config.build with contexts := [] } = .error .noContext ∧
      build ⟨2, 0x68, [⟨2, 1, 240, false⟩]⟩ = .error (.context 0 (.invalidArgument .channel (.int 2))) ∧
      build ⟨4, 0x68, [⟨0, 5, 240, false⟩]⟩ = .error (.context 0 (.invalidArgument .gain (.int 5))) :=
  ⟨rfl, rfl, rfl, rfl, rfl, rfl⟩

theorem test_parse :
    parseLine "CONFIGURE 0, 8, 15, true      ; 0x30" =
        some (.line (.command [] .configure
          [.lit (.handle 0), .lit (.int 8), .lit (.rat 15), .lit (.bool true)])) ∧
      parseLine "t3, mc := SET_RATE t2, 60" =
        some (.line (.command ["t3", "mc"] .setRate [.name "t2", .lit (.rat 60)])) ∧
      parseLine "WAIT" = some (.line .wait) ∧ parseLine "; from S0" = some (.line (.comment " from S0")) := by
  decide

theorem test_parse_literals :
    parseLine "SET_RATE 0x0C, 3.75" =
        some (.line (.command [] .setRate [.lit (.byte 0x0C), .lit (.rat (15 / 4))])) ∧
      parseLine "VALIDATE_CHAN -1" = some (.line (.command [] .validateChan [.lit (.int (-1))])) ∧
      parseLine "w := COMPOSE 2, false, 60, 2" =
        some (.pseudo (.compose "w" (.lit (.int 2)) (.lit (.bool false)) (.lit (.rat 60)) (.lit (.int 2)))) ∧
      parseLine "SET_GAIN 0x100, 1" = none := by
  decide +kernel

/-- The values bound when lines have run, if they ran to their end. -/
def bound (o : Host.Outcome (Env × State) Fault Refusal) : Option Env :=
  match o with
  | .next (env, _) => some env
  | .fault _ => none
  | .refused _ => none

/-- P4: the expansion of `COMPOSE 2, false, 60, 2` gives 0x45. -/
theorem test_compose_expansion :
    ((bound (runLines (Pseudo.expand .four
        (.compose "w" (.lit (.int 2)) (.lit (.bool false)) (.lit (.rat 60)) (.lit (.int 2)))) []
        State.reset)).bind fun env => env.lookup "w") = some (.byte 0x45) := by decide

/-- P4: `VOLTS_OF 8191, 2, 60` gives 128/125. -/
theorem test_volts_of_expansion :
    ((bound (runLines (Pseudo.expand .four
        (.voltsOf "v" (.lit (.int 8191)) (.lit (.int 2)) (.lit (.rat 60)))) []
        State.reset)).bind fun env => env.lookup "v") = some (.rat (128 / 125)) := by decide +kernel

/-- A name bound to a result of another kind is its value (notes/assumptions/14.md): `i := GET_CHAN 0x20` and then
`w := CH_CFG i` reads context 1; a gain 4 as a rate is the rate 4; and no gain is the number 128/125. -/
theorem test_names_of_another_kind :
    ((bound (runLines [.command ["i"] .getChan [.lit (.byte 0x20)], .command ["w"] .chCfg [.name "i"]] []
        State.reset)).bind fun env => env.lookup "w") = some (.byte 0x15) ∧
      commandOf? [("g", .int 4)] .setRate [.lit (.byte 0), .name "g"] =
        some ⟨0x02, [.byte 0, .rat 4], rfl⟩ ∧
      commandOf? [("v", .rat (128 / 125))] .setGain [.lit (.byte 0), .name "v"] = none := by decide +kernel

/-! ### Witnesses: for each statement that has hypotheses, values that meet them, clause by clause -/

theorem witness_reset_runs : State.reset.Running ∧ State.reset.Inv :=
  ⟨⟨rfl, rfl⟩, ⟨trivial, by decide, by decide, .inl rfl⟩⟩

theorem witness_started0_inv : started0.Running ∧ started0.Inv :=
  ⟨⟨rfl, rfl⟩, ⟨rfl, by decide, by decide, .inl rfl⟩⟩

theorem witness_DecodedCommandIsItsEncoding :
    Sys2Proof.decode ⟨0x02, [.byte 0xFF, .rat 0], rfl⟩ = .ok (.setRate 0xFF 0) ∧
      Sys2Proof.decode ⟨0x02, [.byte 0xFF, .rat (-15)], rfl⟩ = .ok (.setRate 0xFF (-15)) ∧
      (encode (.setRate 0xFF 0)).op = Op.setRate.byte := ⟨rfl, rfl, rfl⟩

theorem witness_CommandFormat :
    Op.setGain ∈ [Op.setGain, .setRate, .setCont, .setChan, .withStart, .getGain, .getRate, .getCont, .getChan] ∧
      Op.validateChan ∈ [Op.initiate, .getConv, .activeChan, .validateChan] ∧
      Op.chCfg ∈ [Op.configure, .start, .convTime, .getRaw, .getVolts, .isActive, .chCfg] ∧
      Op.scale.byte.extractLsb' 4 4 = Op.scale.byte.extractLsb' 4 4 ∧
      Op.scale.byte.extractLsb' 0 4 = Op.scale.byte.extractLsb' 0 4 := by decide

theorem witness_StepRunsDecodedOperation :
    (State.reset.issue ⟨0x36, [.handle 1], rfl⟩).Running ∧
      (State.reset.issue ⟨0x36, [.handle 1], rfl⟩).commands = [⟨0x36, [.handle 1], rfl⟩] ∧
      Sys2Proof.decode ⟨0x36, [.handle 1], rfl⟩ = .ok (.chCfg 1) :=
  ⟨⟨rfl, rfl⟩, rfl, rfl⟩

theorem witness_IdleStepChangesNothing : State.reset.Running ∧ State.reset.commands = [] := by decide

theorem witness_RecordedStopEndsEveryStep :
    (State.reset.faultedBy .unwrittenLastConfig).fault = some .unwrittenLastConfig ∧
      (State.reset.refusedBy (.badHandle 2)).fault = none ∧
      (State.reset.refusedBy (.badHandle 2)).refused = some (.badHandle 2) := by decide

theorem witness_EveryOperationEndsInOneOutcome :
    (cached 0x7F).Running ∧ (withCount .one).Running := by decide

theorem witness_RefusalsAreRecordedAndStop_opcode :
    State.reset.Running ∧
      ∀ op ∈ ([0x00, 0x0A, 0x11, 0x37, 0x41, 0xFF] : List Byte),
        op ∉ ([0x01, 0x02, 0x03, 0x04, 0x05, 0x06, 0x07, 0x08, 0x09, 0x10, 0x20, 0x21, 0x22, 0x23, 0x30, 0x31,
          0x32, 0x33, 0x34, 0x35, 0x36, 0x40] : List Byte) := by decide

theorem witness_RefusalsAreRecordedAndStop_others :
    State.reset.ch.length ≤ 2 ∧
      Instr.start 2 ∈ [Instr.configure 2 1 15 true, .start 2, .convTime 2, .getRaw 2, .getVolts 2, .isActive 2,
        .chCfg 2] ∧
      Instr.scale 1 3 131071 ∈ [Instr.decode 0 0 0x80 (15 / 4), .getConv (15 / 4), .scale 1 3 131071] ∧
      after (exec (.start 2) State.reset) = some (State.reset.refusedBy (.badHandle 2)) ∧
      (State.reset.refusedBy (.badHandle 2)).refused = some (.badHandle 2) := by decide

theorem witness_UnwrittenCacheFaults :
    State.reset.Running ∧ State.reset.dev.lastConfig = .unwritten ∧ ((15 : Rat) = 15) ∧ ((240 : Rat) = 240) ∧
      (∃ c, State.reset.ch[1]? = some c ∧ rateSettable c.sampleRate = true) ∧
      exec .activeChan State.reset = .next (State.reset.faultedBy .unwrittenLastConfig) ∧
      (State.reset.faultedBy .unwrittenLastConfig).fault = some .unwrittenLastConfig :=
  ⟨⟨rfl, rfl⟩, rfl, rfl, rfl, ⟨_, rfl, rfl⟩, rfl, rfl⟩

theorem witness_BuildGivesResetValuesOrIsRefused_valid :
    BuildParamsValid Config.build ∧ BuildParamsValid ⟨1, 0, [⟨0, 8, 15, true⟩]⟩ ∧
      BuildParamsValid ⟨2, 127, [⟨1, 4, 240, false⟩, ⟨1, 1, 60, true⟩]⟩ ∧
      Config.build.contexts[1]? = some ⟨0, 2, 60, true⟩ := by decide

theorem witness_BuildGivesResetValuesOrIsRefused_invalid :
    ¬BuildParamsValid ⟨3, 0x68, [⟨0, 1, 15, true⟩]⟩ ∧ ¬BuildParamsValid ⟨4, 128, [⟨0, 1, 15, true⟩]⟩ ∧
      ¬BuildParamsValid ⟨4, -1, [⟨0, 1, 15, true⟩]⟩ ∧ ¬BuildParamsValid ⟨4, 0x68, []⟩ ∧
      ¬BuildParamsValid ⟨4, 0x68, [⟨0, 1, 15, true⟩, ⟨4, 1, 15, true⟩]⟩ :=
  ⟨by decide, by decide, by decide, by decide, by decide⟩

theorem witness_ContextConstruction :
    ¬((0 : Int) ≤ -1 ∧ (-1 : Int) < channelCountValue .two) ∧
      ¬((0 : Int) ≤ 2 ∧ (2 : Int) < channelCountValue .two) ∧
      ((0 : Int) ≤ 1 ∧ (1 : Int) < channelCountValue .two) ∧ (5 : Int) ∉ ([1, 2, 4, 8] : List Int) ∧
      (8 : Int) ∈ ([1, 2, 4, 8] : List Int) ∧ (15 / 4 : Rat) ∉ ([15, 60, 240] : List Rat) ∧
      (240 : Rat) ∈ ([15, 60, 240] : List Rat) ∧
      constructContext .two ⟨2, 1, 15, true⟩ = .error (.invalidArgument .channel (.int 2)) ∧
      (⟨2, 1, 15, true⟩ : ContextArgs) ∈ (⟨2, 0, [⟨2, 1, 15, true⟩]⟩ : BuildParams).contexts ∧
      (⟨2, 0, [⟨2, 1, 15, true⟩]⟩ : BuildParams).channelCount = channelCountValue .two := by decide +kernel

theorem witness_BuildEstablishesInvariant : build Config.build = .ok State.reset := by rfl

theorem witness_StepKeepsInvariant :
    (State.reset.issue (encode (.configure 1 8 240 false))).Inv ∧
      ∃ t, step (State.reset.issue (encode (.configure 1 8 240 false))) = .next t ∧ t ≠ State.reset :=
  ⟨⟨trivial, by decide, by decide, .inl rfl⟩, ⟨_, rfl, by decide⟩⟩

theorem witness_StepKeepsBuildConstants :
    ∃ t, step ((answerWrite .ok State.reset).issue (encode (.start 1))) = .next t ∧
      t.dev.lastConfig = .byte 0x15 := ⟨_, rfl, by decide⟩

theorem witness_CacheIsWrittenOnlyBySuccessfulInitiate :
    ∃ t, exec (.initiate 0xFF) (answerWrite .ok (cached 0x00)) = .next t ∧
      t.dev.lastConfig ≠ (answerWrite .ok (cached 0x00)).dev.lastConfig := ⟨_, rfl, by decide⟩

theorem witness_AtMostOneTransaction :
    (∃ t, exec (.validateChan 4) State.reset = .next t) ∧ (∃ t, exec (.start 2) State.reset = .next t) ∧
      (∃ t, exec (.start 1) (answerWrite .transportError State.reset) = .next t) ∧
      ∃ t, exec (.getRaw 0) (answerRead .transportError started0) = .next t :=
  ⟨⟨_, rfl⟩, ⟨_, rfl⟩, ⟨_, rfl⟩, ⟨_, rfl⟩⟩

theorem witness_FrameIsExactlyThreeBytes :
    readFrame? (.bytes [1, 2, 3]) = some ⟨1, 2, 3⟩ ∧ readFrame? (.bytes [1, 2]) = none ∧
      readFrame? (.bytes [1, 2, 3, 4]) = none ∧ readFrame? .transportError = none := by decide

theorem witness_ErrorsLeaveStateUnchanged :
    ∃ t, exec (.start 0) (answerWrite .transportError State.reset) = .next t ∧
      t.outcomes = .raise (.busError .write) :: (answerWrite .transportError State.reset).outcomes :=
  ⟨_, rfl, rfl⟩

theorem witness_InvalidArgumentBeforeAnyEffect :
    ∃ t, exec (.configure 0 8 30 true) State.reset = .next t ∧
      t.outcomes = .raise (.invalidArgument .rate (.rat 30)) :: State.reset.outcomes := ⟨_, rfl, rfl⟩

theorem witness_PureOperationsFrame :
    (∃ t, exec (.setGain 0xFF 3) State.reset = .next t) ∧ (∃ t, exec (.scale 0 1 131071) State.reset = .next t) ∧
      (∃ t, exec (.isActive 5) started0 = .next t) ∧ ∃ t, exec .activeChan State.reset = .next t :=
  ⟨⟨_, rfl⟩, ⟨_, rfl⟩, ⟨_, rfl⟩, ⟨_, rfl⟩⟩

theorem witness_ContextsFrame :
    (∃ t, exec (.initiate 0) (answerWrite .ok State.reset) = .next t) ∧
      (∃ t, exec (.configure 1 8 15 false) State.reset = .next t) ∧
      (∃ t, exec (.start 1) (answerWrite .ok State.reset) = .next t) ∧
      (∃ t, exec (.getVolts 0) (answerRead (.bytes [0, 0, 0]) started0) = .next t) ∧ (0 : Nat) ≠ 1 ∧
      (∃ c, State.reset.ch[1]? = some c) ∧ ∃ c, started0.ch[0]? = some c :=
  ⟨⟨_, rfl⟩, ⟨_, rfl⟩, ⟨_, rfl⟩, ⟨_, rfl⟩, by decide, ⟨_, rfl⟩, ⟨_, rfl⟩⟩

theorem witness_PhasesInfluenceNothing :
    started0.withoutPhases = (cached 0x20).withoutPhases ∧ started0 ≠ cached 0x20 ∧
      ∃ t, exec (.isActive 0) started0 = .next t := ⟨by decide, by decide, ⟨_, rfl⟩⟩

theorem witness_CompositionIsSumOfFields (m : MuxCode) (b : Bool) (r : Rate) (g : Gain) :
    [fun w => putGain w g, fun w => putMux w m, fun w => putCont w b, fun w => putRate w r].Perm
      [fun w => putMux w m, fun w => putCont w b, fun w => putRate w r, fun w => putGain w g] :=
  List.perm_middle (l₁ := [fun w => putMux w m, fun w => putCont w b, fun w => putRate w r]) (l₂ := []) |>.symm

theorem witness_SetGainResult :
    State.reset.Running ∧ ((1, 0) : Int × Byte) ∈ gainRows ∧ ((8, 3) : Int × Byte) ∈ gainRows ∧
      ∀ g ∈ ([0, 3, 16, -1] : List Int), g ∉ ([1, 2, 4, 8] : List Int) := by decide

theorem witness_SetRateResult :
    State.reset.Running ∧ ((240, 12, 2047, 0) : Rat × Nat × Int × Byte) ∈ rateRows ∧
      ((15, 16, 32767, 2) : Rat × Nat × Int × Byte) ∈ rateRows ∧
      ∀ r ∈ ([0, 15 / 4, 30, 241] : List Rat), r ∉ ([15, 60, 240] : List Rat) := by decide +kernel

theorem witness_SetContResult_WithStartResult : State.reset.Running ∧ (cached 0xFF).Running := by decide

theorem witness_SetChanResult :
    State.reset.Running ∧ (8 : Int) ∉ ([1, 2, 4] : List Int) ∧ (4 : Int) ∈ ([1, 2, 4] : List Int) ∧
      ¬((0 : Int) ≤ 4 ∧ (4 : Int) < 4) ∧ ¬((0 : Int) ≤ -1 ∧ (-1 : Int) < 4) ∧
      ((0 : Int) ≤ 0 ∧ (0 : Int) < 1) ∧ ((0 : Int) ≤ 3 ∧ (3 : Int) < 4) := by decide

theorem witness_ReadBackResults :
    State.reset.Running ∧ ((3, 15 / 4) : Nat × Rat) ∈ ([(0, 240), (1, 60), (2, 15), (3, 15 / 4)] : List (Nat × Rat)) ∧
      (0xFF : Byte).toNat / 4 % 4 = 3 ∧ (0xF3 : Byte).toNat / 4 % 4 = 0 := by decide +kernel

theorem witness_EncodersAreFieldIsolated :
    resultWord (exec (.setGain 0xFF 1) State.reset) = some 0xFC ∧
      resultWord (exec (.setRate 0xFF 15) State.reset) = some 0xFB ∧
      resultWord (exec (.setCont 0xFF false) State.reset) = some 0xEF ∧
      resultWord (exec (.setChan 0xFF 0 1) State.reset) = some 0x9F ∧
      resultWord (exec (.withStart 0x00) State.reset) = some 0x80 := by decide

theorem witness_EncodersRoundTrip :
    State.reset.Running ∧ resultWord (exec (.setGain 0xA5 8) State.reset) = some 0xA7 ∧
      resultWord (exec (.setRate 0xA5 15) State.reset) = some 0xA9 ∧
      resultWord (exec (.setCont 0xA5 true) State.reset) = some 0xB5 ∧
      resultWord (exec (.setChan 0xA5 1 4) State.reset) = some 0xA5 ∧
      (0xA5 : Byte).extractLsb' 2 2 ≠ 0b11 := by decide

theorem witness_EncodersCommute :
    resultWord (exec (.setGain 0xFF 1) State.reset) = some 0xFC ∧
      resultWord (exec (.setRate 0xFC 60) State.reset) = some 0xF4 ∧
      resultWord (exec (.setRate 0xFF 60) State.reset) = some 0xF7 ∧
      resultWord (exec (.setCont 0xFC false) State.reset) = some 0xEC ∧
      resultWord (exec (.setCont 0xFF false) State.reset) = some 0xEF ∧
      resultWord (exec (.setChan 0xFC 0 4) State.reset) = some 0x9C ∧
      resultWord (exec (.setChan 0xFF 0 4) State.reset) = some 0x9F ∧
      resultWord (exec (.setCont 0xF7 false) State.reset) = some 0xE7 ∧
      resultWord (exec (.setChan 0xF7 0 4) State.reset) = some 0x97 ∧
      resultWord (exec (.setChan 0xEF 0 4) State.reset) = some 0x8F := by decide

theorem witness_DecodeResult :
    State.reset.Running ∧ (30 : Rat) ∉ ([15 / 4, 15, 60, 240] : List Rat) ∧
      ((60, 14, 8191, 1) : Rat × Nat × Int × Byte) ∈ rateRows ∧ (0x80 : Byte).getLsbD 7 = true ∧
      (0x7F : Byte).getLsbD 7 = false := by decide +kernel

theorem witness_DecodeIsSignExtension : State.reset.Running ∧ (0x7F : Byte).getLsbD 7 = false := by decide

theorem witness_DecodeIsBijection :
    State.reset.Running ∧ ((240, 12, 2047, 0) : Rat × Nat × Int × Byte) ∈ rateRows ∧
      (∃ t, exec (.decode 0x08 0x00 0 240) State.reset = .next t ∧
        t.outcomes = .ok (.code (-2048)) :: State.reset.outcomes) ∧
      ((0x0F : Byte).toNat * 256 + (0xFF : Byte).toNat : Int) < 2 ^ 12 ∧
      ((0x07 : Byte).toNat * 256 + (0xFF : Byte).toNat : Int) ≤ 2047 ∧
      (2047 : Int) < (0x08 : Byte).toNat * 256 + (0x00 : Byte).toNat ∧
      exec (.decode 0x07 0xFF 0 240) State.reset = .next (State.reset.reply (.ok (.code 2047))) :=
  ⟨⟨rfl, rfl⟩, by decide, ⟨_, rfl, rfl⟩, by decide, by decide, by decide, rfl⟩

theorem witness_NotReadyComesFromReadyBit :
    (∃ t, exec (.decode 0 0 0x80 15) State.reset = .next t ∧
        t.outcomes = .raise .conversionNotReady :: State.reset.outcomes) ∧
      ∃ t, exec (.getVolts 0) (answerRead (.bytes [0, 0, 0xFF]) started0) = .next t ∧
        t.outcomes = .raise .conversionNotReady :: (answerRead (.bytes [0, 0, 0xFF]) started0).outcomes :=
  ⟨⟨_, rfl, rfl⟩, ⟨_, rfl, rfl⟩⟩

theorem witness_DecodeReadsOnlyReadyBitAndField :
    State.reset.Running ∧ started0.Running ∧ ((240, 12, 2047, 0) : Rat × Nat × Int × Byte) ∈ rateRows ∧
      (0x00 : Byte).getLsbD 7 = (0x7F : Byte).getLsbD 7 ∧
      ((0x0A : Byte).toNat * 256 + (0x28 : Byte).toNat) % 2 ^ 12 =
        ((0xFA : Byte).toNat * 256 + (0x28 : Byte).toNat) % 2 ^ 12 := by decide

theorem witness_InitiateResult :
    (answerWrite .ok State.reset).Running ∧ (answerWrite .ok State.reset).nextWriteAnswer = .ok ∧
      (answerWrite .transportError State.reset).nextWriteAnswer = .transportError := by decide

theorem witness_GetConvResult :
    State.reset.Running ∧ (0 : Rat) ∉ ([15 / 4, 15, 60, 240] : List Rat) ∧
      ((15, 16, 32767, 2) : Rat × Nat × Int × Byte) ∈ rateRows ∧ State.reset.dev.lastConfig = .unwritten ∧
      (answerRead .transportError (cached 0x08)).dev.lastConfig = .byte 0x08 ∧
      (answerRead (.bytes [1, 2, 3]) (cached 0x08)).nextReadAnswer = .bytes [1, 2, 3] ∧
      (0x80 : Byte).getLsbD 7 = true ∧ (0x7F : Byte).getLsbD 7 = false := by decide +kernel

/-- Answers that are no result frame: a transport error and too few or too many bytes. -/
theorem witness_no_frame :
    ∀ a ∈ ([.transportError, .bytes [], .bytes [1, 2], .bytes [1, 2, 3, 4]] : List ReadAnswer),
      ∀ b0 b1 b2 : Byte, (answerRead a started0).nextReadAnswer ≠ .bytes [b0, b1, b2] := by
  intro a ha b0 b1 b2
  simp only [List.mem_cons, List.not_mem_nil, or_false] at ha
  rcases ha with rfl | rfl | rfl | rfl <;> simp [answerRead, State.nextReadAnswer]

theorem witness_ActiveChanResult :
    State.reset.Running ∧ State.reset.dev.lastConfig = .unwritten ∧ (cached 0x60).Running ∧
      (cached 0x60).dev.lastConfig = .byte 0x60 := by decide

theorem witness_ValidateChanResult :
    (withCount .four).Running ∧ ((0 : Int) ≤ 3 ∧ (3 : Int) < channelCountValue (withCount .four).dev.channelCount) ∧
      ¬((0 : Int) ≤ 4 ∧ (4 : Int) < channelCountValue (withCount .four).dev.channelCount) ∧
      ¬((0 : Int) ≤ 1 ∧ (1 : Int) < channelCountValue (withCount .one).dev.channelCount) := by decide

theorem witness_ConfigureResult :
    State.reset.Running ∧ (∃ c, State.reset.ch[1]? = some c) ∧ (0 : Int) ∉ ([1, 2, 4, 8] : List Int) ∧
      (8 : Int) ∈ ([1, 2, 4, 8] : List Int) ∧ (15 / 4 : Rat) ∉ ([15, 60, 240] : List Rat) ∧
      (gainValue .x8 : Int) = 8 ∧ rateSps .sps15 = 15 ∧ rateSettable .sps15 = true :=
  ⟨⟨rfl, rfl⟩, ⟨_, rfl⟩, by decide, by decide, by decide +kernel, rfl, rfl, rfl⟩

theorem witness_StartResult :
    (answerWrite .ok State.reset).Running ∧ (∃ c, (answerWrite .ok State.reset).ch[1]? = some c) ∧
      (answerWrite .ok State.reset).nextWriteAnswer = .ok ∧
      (answerWrite .transportError State.reset).nextWriteAnswer = .transportError :=
  ⟨⟨rfl, rfl⟩, ⟨_, rfl⟩, rfl, rfl⟩

theorem witness_ConvTimeAndChCfgResults :
    State.reset.Running ∧ (∃ c, State.reset.ch[0]? = some c) ∧ ∃ c, State.reset.ch[1]? = some c :=
  ⟨⟨rfl, rfl⟩, ⟨_, rfl⟩, ⟨_, rfl⟩⟩

/-- The hypotheses of `GetRawResult`, `GetVoltsResult` and `EveryReadEndsInResultOrListedError`. -/
theorem witness_GetRawResult_GetVoltsResult :
    (∃ c, State.reset.ch[0]? = some c ∧ rateSps c.sampleRate = 240 ∧
        State.reset.dev.lastConfig = .unwritten) ∧
      (∃ c, started0.ch[0]? = some c ∧ rateSps c.sampleRate = 240 ∧ started0.dev.lastConfig = .byte 0x20) ∧
      ((240, 12, 2047, 0) : Rat × Nat × Int × Byte) ∈ rateRows ∧
      (answerRead (.bytes [0x0A, 0x28, 0x80]) started0).nextReadAnswer = .bytes [0x0A, 0x28, 0x80] ∧
      (0x80 : Byte).getLsbD 7 = true ∧ (0x00 : Byte).getLsbD 7 = false :=
  ⟨⟨_, rfl, rfl, rfl⟩, ⟨_, rfl, rfl, rfl⟩, by decide, rfl, rfl, rfl⟩

theorem witness_IsActiveResult :
    (∃ c, State.reset.ch[1]? = some c ∧ State.reset.dev.lastConfig = .unwritten) ∧
      ∃ c, started0.ch[1]? = some c ∧ started0.dev.lastConfig = .byte 0x20 :=
  ⟨⟨_, rfl, rfl⟩, ⟨_, rfl, rfl⟩⟩

theorem witness_StartDecidesWhoIsActive :
    (∃ t c, (answerWrite .ok State.reset).ch[0]? = some c ∧
        exec (.start 0) (answerWrite .ok State.reset) = .next t ∧
        t.outcomes = .ok .unit :: (answerWrite .ok State.reset).outcomes ∧
        ∃ c', (answerWrite .ok State.reset).ch[1]? = some c') ∧
      (∃ t, exec (.configure 0 8 15 true) started0 = .next t ∧ t.Running) ∧
      (answerWrite .transportError started0).nextWriteAnswer = .transportError ∧
      (∃ t, exec (.start 1) (answerWrite .transportError started0) = .next t ∧ t.Running) ∧
      exec (.isActive 0) started0 = .next (started0.reply (.ok (.bool true))) :=
  ⟨⟨_, _, rfl, rfl, rfl, ⟨_, rfl⟩⟩, ⟨_, rfl, ⟨rfl, rfl⟩⟩, rfl, ⟨_, rfl, ⟨rfl, rfl⟩⟩, rfl⟩

theorem witness_ScaleResult :
    State.reset.Running ∧ (2047 : Int) ≠ 131071 ∧ (3 : Int) ∉ ([1, 2, 4, 8] : List Int) ∧
      (8 : Int) ∈ ([1, 2, 4, 8] : List Int) ∧ (4095 : Int) ∉ ([2047, 8191, 32767] : List Int) ∧
      (32767 : Int) ∈ ([2047, 8191, 32767] : List Int) := by decide

theorem witness_ScaleLaws_ScalePairWidths :
    ((15, 16, 32767, 2) : Rat × Nat × Int × Byte) ∈ rateRows ∧ gainValue .x8 = 2 * gainValue .x4 ∧
      -((32767 : Int) + 1) ≤ -32768 ∧ (32767 : Int) ≤ 32767 := by decide

theorem witness_ComposeExpansionGivesComposition :
    State.reset.Running ∧ (((3 : MuxCode).toNat : Int) = 3) ∧
      (3 : MuxCode).toNat < channelCountValue State.reset.dev.channelCount ∧ rateSps .sps60 = 60 ∧
      rateSettable .sps60 = true ∧ (gainValue .x2 : Int) = 2 ∧
      ¬((0 : Int) ≤ 4 ∧ (4 : Int) < channelCountValue State.reset.dev.channelCount) ∧
      (15 / 4 : Rat) ∉ ([15, 60, 240] : List Rat) ∧ (60 : Rat) ∈ ([15, 60, 240] : List Rat) ∧
      (3 : Int) ∉ ([1, 2, 4, 8] : List Int) := by decide +kernel

theorem witness_VoltsOfAndReadVoltsExpansions :
    State.reset.Running ∧ ((240, 12, 2047, 0) : Rat × Nat × Int × Byte) ∈ rateRows ∧
      (∃ c, (answerRead (.bytes [1, 2, 3]) (answerWrite .ok State.reset)).ch[0]? = some c ∧
        rateSps c.sampleRate = 240) ∧
      (answerRead (.bytes [1, 2, 3]) (answerWrite .ok State.reset)).nextWriteAnswer = .ok ∧
      (answerRead (.bytes [1, 2, 3]) (answerWrite .ok State.reset)).readAnswers = .bytes [1, 2, 3] :: [] ∧
      (0x80 : Byte).getLsbD 7 = true ∧ (0x03 : Byte).getLsbD 7 = false :=
  ⟨⟨rfl, rfl⟩, by decide, ⟨_, rfl, rfl⟩, rfl, rfl, rfl, rfl⟩

/-- The hypotheses of `EveryCommandIsExecuted`: an operation, a bad argument and an opcode outside the map. -/
theorem witness_EveryCommandIsExecuted :
    ∀ c ∈ ([⟨0x36, [.handle 1], rfl⟩, ⟨0x02, [.byte 0, .rat (-1)], rfl⟩, ⟨0x41, [.int 7], rfl⟩] : List Command),
      (State.reset.issue c).Running ∧ (State.reset.issue c).commands = c :: [] := by decide

end Sys2Proof.Tests
end

section
/-! PROOFS of the scope statements (00_scope.md R13): a running block answers every operation, and every next command,
with a next state that has one outcome more. -/

namespace Sys2Proof.Machine

/-! ### An operation runs behind the gate -/

/-- Every arm of the dispatch ends an operation with `finish`, behind the gate (R218, R13). -/
theorem exec_eq_gate_finish (i : Instr) (s : State) :
    ∃ r : OpOutcome Value × State, exec i s = gate s (.next (finish r)) := by
  cases i <;> exact ⟨_, rfl⟩

/-- A running block answers every operation with a next state, the end of one of the operation's effects: the
progress that `exec_effect` takes as its hypothesis. -/
theorem exec_of_running {s : State} (hs : s.Running) (i : Instr) :
    ∃ o u, Effect s i o u ∧ exec i s = .next (finish (o, u)) := by
  obtain ⟨r, hgate⟩ := exec_eq_gate_finish i s
  have he : exec i s = .next (finish r) := hgate.trans (gate_of_running hs _)
  obtain ⟨-, o, u, heff, ht⟩ := exec_effect he
  exact ⟨o, u, heff, by rw [he, ht]⟩

/-! ### What an operation leaves for its end to record -/

/-- Before its outcome is returned, an operation has touched neither the stop reasons, nor the commands issued, nor
the outcomes returned. -/
theorem Effect.bookkeeping {s u : State} {i : Instr} {o : OpOutcome Value} (h : Effect s i o u) :
    u.fault = s.fault ∧ u.refused = s.refused ∧ u.commands = s.commands ∧ u.outcomes = s.outcomes := by
  cases h <;> simp

/-- The end of an operation on a state with no fault records a fault exactly when the outcome is that fault
(R215). -/
theorem finish_fault_eq_some_iff {s : State} (hs : s.fault = none) (o : OpOutcome Value) (f : Fault) :
    (finish (o, s)).fault = some f ↔ o = .fault f := by
  cases o <;> simp [finish, hs]

/-- The end of an operation on a state with no refusal records a refusal exactly when the outcome is that refusal
(R216). -/
theorem finish_refused_eq_some_iff {s : State} (hs : s.refused = none) (o : OpOutcome Value) (x : Refusal) :
    (finish (o, s)).refused = some x ↔ o = .refuse x := by
  cases o <;> simp [finish, hs]

/-- Settles O8: `exec_of_running` gives the next state, and its outcome is all that `finish` adds to an effect, which
leaves the bookkeeping as it was. -/
theorem everyOperationEndsInOneOutcome : Obligations.EveryOperationEndsInOneOutcome := by
  intro s i hs
  obtain ⟨o, u, heff, he⟩ := exec_of_running hs i
  obtain ⟨hfault, hrefused, hcommands, houtcomes⟩ := heff.bookkeeping
  obtain ⟨-, -, hcommands', -, -, -, houtcomes'⟩ := finish_frame (o, u)
  refine ⟨o, _, he, ?_, ?_, ?_, ?_⟩
  · rw [houtcomes', houtcomes]
  · rw [hcommands', hcommands]
  · exact finish_fault_eq_some_iff (hfault.trans hs.1) o
  · exact finish_refused_eq_some_iff (hrefused.trans hs.2) o

/-! ### The step on the next command -/

/-- A running block executes the operation its next command decodes to (R70). -/
theorem step_of_decode_ok {s : State} {c : Command} {rest : List Command} {i : Instr} (hs : s.Running)
    (hc : s.commands = c :: rest) (hd : Sys2Proof.decode c = .ok i) :
    step s = exec i { s with commands := rest } := by
  rw [step, gate_of_running hs]
  simp [fetch, hc, hd]

/-- A running block refuses a next command that spells no operation (R74, R216). -/
theorem step_of_decode_error {s : State} {c : Command} {rest : List Command} {op : Byte} (hs : s.Running)
    (hc : s.commands = c :: rest) (hd : Sys2Proof.decode c = .error (.illegalOpcode op)) :
    step s = .next ({ s with commands := rest }.refusedBy (.illegalOpcode op)) := by
  rw [step, gate_of_running hs]
  simp [fetch, hc, hd, refuseCommand, finish_refuse, hs.2]

/-- The decoder refuses a command exactly for an opcode that is no operation's (R72, R74). -/
theorem ne_byte_of_decode_error {c : Command} {e : DecodeError} (hd : Sys2Proof.decode c = .error e) (op : Op) :
    c.op ≠ op.byte := by
  obtain ⟨hnone, -⟩ := (decode_eq_error_iff c e).mp hd
  intro hop
  cases hnone.symm.trans ((Op.ofByte?_eq_some_iff c.op op).mpr hop.symm)

/-- Settles O60: a command that decodes ends as O8 says of its operation; one that does not is refused with its
opcode. -/
theorem everyCommandIsExecuted : Obligations.EveryCommandIsExecuted := by
  intro s c rest hs hc
  cases hd : Sys2Proof.decode c with
  | ok i =>
    obtain ⟨o, t, he, houtcomes, hcommands, -, -⟩ :=
      everyOperationEndsInOneOutcome { s with commands := rest } i hs
    exact ⟨t, o, (step_of_decode_ok hs hc hd).trans he, hcommands, houtcomes, .inl ⟨i, rfl, he⟩⟩
  | error e =>
    obtain ⟨-, rfl⟩ := (decode_eq_error_iff c e).mp hd
    exact ⟨_, _, step_of_decode_error hs hc hd, rfl, rfl, .inr ⟨rfl, ne_byte_of_decode_error hd⟩⟩

end Sys2Proof.Machine
end

section
/-! PROOFS of the state statements (10_state.md): what an operation can do to the Device and to the contexts, said
once; the invariant, the constants of the build, the cache and the frame of the contexts follow from that. Last, the
phase as a ghost. -/

namespace Sys2Proof.Machine

/-! ### What an operation can do to the Device -/

/-- `i` initiates the word `w`: `INITIATE w`, or `START` of a context whose config byte is `w` (R150, R171). -/
def Initiates (s : State) (i : Instr) (w : Byte) : Prop :=
  i = .initiate w ∨ ∃ h c, i = .start h ∧ s.ch[h]? = some c ∧ w = configByte c

/-- An operation leaves the Device alone, or it is an initiation whose write was answered `Ok`, and the word is
cached without its start bit (R23, R53). -/
theorem exec_device {s t : State} {i : Instr} (he : exec i s = .next t) :
    t.dev = s.dev ∨ s.nextWriteAnswer = .ok ∧
      ∃ w, Initiates s i w ∧ t.dev = { s.dev with lastConfig := .byte (clearStart w) } := by
  obtain ⟨-, o, u, heff, rfl⟩ := exec_effect he
  rw [(finish_frame (o, u)).1]
  cases heff with
  | initiate answer => exact .inr ⟨answer, _, .inl rfl, rfl⟩
  | start context answer => exact .inr ⟨answer, _, .inr ⟨_, _, rfl, context, rfl⟩, rfl⟩
  | _ => exact .inl rfl

/-- Settles O17: the second case of `exec_device` is the statement, and the first leaves the cache as it was. -/
theorem cacheIsWrittenOnlyBySuccessfulInitiate : Obligations.CacheIsWrittenOnlyBySuccessfulInitiate := by
  intro s t i he hne
  obtain hdev | ⟨answer, w, initiates, hdev⟩ := exec_device he
  · exact absurd (congrArg Device.lastConfig hdev) hne
  · exact ⟨answer, w, congrArg Device.lastConfig hdev, initiates⟩

/-! ### What an operation can do to the contexts -/

/-- `ContextWrite h c i c'`: operation `i` may replace context `h`, which is `c`, by `c'` (R170, R171, R173, R174). -/
inductive ContextWrite (h : Nat) (c : Channel) : Instr → Channel → Prop where
  | configure {gain rate b g r} (settable : rateSettable r = true) :
      ContextWrite h c (.configure h gain rate b) { c with gain := g, sampleRate := r, continuous := b }
  | start : ContextWrite h c (.start h) { c with phase := .awaiting }
  | getRaw : ContextWrite h c (.getRaw h) { c with phase := .idle }
  | getVolts : ContextWrite h c (.getVolts h) { c with phase := .idle }

/-- No operation rewrites a mux index (R26). -/
theorem ContextWrite.muxIndex_eq {h : Nat} {i : Instr} {c c' : Channel} (hw : ContextWrite h c i c') :
    c'.muxIndex = c.muxIndex := by
  cases hw <;> rfl

/-- What is written over a valid context is a valid context (R37(b)). -/
theorem ContextWrite.valid {h : Nat} {i : Instr} {c c' : Channel} {count : ChannelCount}
    (hw : ContextWrite h c i c') (hc : c.Valid count) : c'.Valid count := by
  cases hw with
  | configure settable => exact ⟨hc.1, settable⟩
  | _ => exact hc

/-- An operation leaves the contexts alone, or it replaces one by what it may write there. -/
theorem exec_contexts {s t : State} {i : Instr} (he : exec i s = .next t) :
    t.ch = s.ch ∨
      ∃ h c c', s.ch[h]? = some c ∧ ContextWrite h c i c' ∧ t.ch = s.ch.set h c' := by
  obtain ⟨-, o, u, heff, rfl⟩ := exec_effect he
  rw [(finish_frame (o, u)).2.1]
  cases heff with
  | configure context _ _ settable => exact .inr ⟨_, _, _, context, .configure settable, rfl⟩
  | start context => exact .inr ⟨_, _, _, context, .start, rfl⟩
  | getRaw context => exact .inr ⟨_, _, _, context, .getRaw, rfl⟩
  | getVolts context => exact .inr ⟨_, _, _, context, .getVolts, rfl⟩
  | _ => exact .inl rfl

/-- The number of contexts never changes (R25). -/
theorem exec_contexts_length {s t : State} {i : Instr} (he : exec i s = .next t) :
    t.ch.length = s.ch.length := by
  obtain hch | ⟨h, c, c', -, -, hch⟩ := exec_contexts he <;> simp [hch]

/-- An operation that may write no other context than `h` leaves every other one alone. -/
theorem exec_getElem?_ne {s t : State} {i : Instr} {h h' : Nat} (he : exec i s = .next t)
    (only : ∀ k c c', ContextWrite k c i c' → k = h) (hne : h' ≠ h) : t.ch[h']? = s.ch[h']? := by
  obtain hch | ⟨k, c, c', -, hw, hch⟩ := exec_contexts he
  · rw [hch]
  · rw [hch, only k c c' hw, List.getElem?_set_ne hne.symm]

/-- A context is after an operation what it was before, or what the operation may write there. -/
theorem exec_getElem? {s t : State} {i : Instr} {h : Nat} {c : Channel} (he : exec i s = .next t)
    (hc : s.ch[h]? = some c) : ∃ c', t.ch[h]? = some c' ∧ (c' = c ∨ ContextWrite h c i c') := by
  obtain hch | ⟨k, d, d', hd, hw, hch⟩ := exec_contexts he
  · exact ⟨c, hch ▸ hc, .inl rfl⟩
  · by_cases hk : k = h
    · subst hk
      obtain rfl : d = c := by simpa [hd] using hc
      obtain ⟨hlt, -⟩ := List.getElem?_eq_some_iff.mp hc
      exact ⟨d', by rw [hch, List.getElem?_set_self hlt], .inr hw⟩
    · exact ⟨c, by rw [hch, List.getElem?_set_ne hk, hc], .inl rfl⟩

/-- Settles O24, from `exec_contexts`: no write fits `INITIATE` and `GET_CONV`, those that fit the other four are to
their own handle, and each says which fields it keeps. -/
theorem contextsFrame : Obligations.ContextsFrame := by
  refine ⟨?_, ?_, ?_, ?_⟩
  · intro s t w rate i hi he
    obtain hch | ⟨h, c, c', -, hw, -⟩ := exec_contexts he
    · exact hch
    · cases hw <;> simp at hi
  · intro s t h gain rate b i hi he
    refine ⟨exec_contexts_length he, fun h' hne => exec_getElem?_ne he ?_ hne⟩
    intro k c c' hw
    cases hw <;> simp_all
  · intro s t h gain rate b c he hc
    have hdev : t.dev = s.dev := by
      obtain hdev | ⟨-, w, initiates, -⟩ := exec_device he
      · exact hdev
      · simp [Initiates] at initiates
    obtain ⟨c', hc', rfl | hw⟩ := exec_getElem? he hc
    · exact ⟨hdev, c', hc', rfl, rfl⟩
    · cases hw
      exact ⟨hdev, _, hc', rfl, rfl⟩
  · intro s t h c i hi he hc
    obtain ⟨c', hc', rfl | hw⟩ := exec_getElem? he hc
    · exact ⟨c', hc', rfl, rfl, rfl, rfl⟩
    · refine ⟨c', hc', hw.muxIndex_eq, ?_⟩
      cases hw with
      | configure => simp at hi
      | _ => exact ⟨rfl, rfl, rfl⟩

/-! ### The constants of the build -/

/-- Replacing a context by one with the same mux index keeps the list of mux indices. -/
theorem map_muxIndex_set {l : List Channel} {h : Nat} {c c' : Channel} (hc : l[h]? = some c)
    (hm : c'.muxIndex = c.muxIndex) : (l.set h c').map Channel.muxIndex = l.map Channel.muxIndex := by
  obtain ⟨hlt, rfl⟩ := List.getElem?_eq_some_iff.mp hc
  rw [List.map_set, hm, ← List.getElem_map Channel.muxIndex (h := by simpa using hlt), List.set_getElem_self]

/-- No operation changes the address, the channel count or a mux index. -/
theorem exec_keeps_build_constants {s t : State} {i : Instr} (he : exec i s = .next t) :
    t.dev.address = s.dev.address ∧ t.dev.channelCount = s.dev.channelCount ∧
      t.ch.map Channel.muxIndex = s.ch.map Channel.muxIndex := by
  have hmux : t.ch.map Channel.muxIndex = s.ch.map Channel.muxIndex := by
    obtain hch | ⟨h, c, c', hc, hw, hch⟩ := exec_contexts he
    · rw [hch]
    · rw [hch, map_muxIndex_set hc hw.muxIndex_eq]
  obtain hdev | ⟨-, w, -, hdev⟩ := exec_device he <;> simp [hdev, hmux]

/-- Settles O16: a step is idle, an operation, or a refusal, which touches neither the Device nor the contexts. -/
theorem stepKeepsBuildConstants : Obligations.StepKeepsBuildConstants := by
  intro s t ht
  obtain ⟨-, ⟨-, rfl⟩ | ⟨c, rest, -, ⟨i, -, he⟩ | ⟨op, -, rfl⟩⟩⟩ := step_next ht
  · exact ⟨rfl, rfl, rfl⟩
  · exact exec_keeps_build_constants (s := { s with commands := rest }) he
  · exact ⟨rfl, rfl, rfl⟩

/-! ### The invariant -/

/-- The cached form of a word has bit 7 clear (R23). -/
@[simp] theorem getLsbD_clearStart_seven (w : Byte) : (clearStart w).getLsbD 7 = false := by
  simp [clearStart]

/-- An operation records at most one of a fault and a refusal: it has one outcome (R13, R35). -/
theorem exec_oneStop {s t : State} {i : Instr} (he : exec i s = .next t) : t.fault = none ∨ t.refused = none := by
  obtain ⟨hr, -⟩ := exec_effect he
  obtain ⟨o, t', he', -, -, hfault, hrefused⟩ := everyOperationEndsInOneOutcome s i hr
  obtain rfl : t' = t := by simpa [he'] using he
  cases hf : t'.fault with
  | none => exact .inl rfl
  | some f =>
    refine .inr (Option.eq_none_iff_forall_ne_some.mpr fun x hx => ?_)
    cases ((hfault f).mp hf).symm.trans ((hrefused x).mp hx)

/-- Every operation keeps the invariant. -/
theorem exec_keeps_inv {s t : State} {i : Instr} (hs : s.Inv) (he : exec i s = .next t) : t.Inv where
  lastConfig := by
    obtain hdev | ⟨-, w, -, hdev⟩ := exec_device he <;> rw [hdev]
    · exact hs.lastConfig
    · exact getLsbD_clearStart_seven w
  channels := by
    obtain ⟨-, hcount, -⟩ := exec_keeps_build_constants he
    rw [hcount]
    obtain hch | ⟨h, c, c', hc, hw, hch⟩ := exec_contexts he <;> rw [hch]
    · exact hs.channels
    · intro d hd
      obtain hd | rfl := List.mem_or_eq_of_mem_set hd
      · exact hs.channels d hd
      · exact hw.valid (hs.channels c (List.mem_of_getElem? hc))
  someContext := by
    have hlen := exec_contexts_length he
    have hpos := List.length_pos_iff.mpr hs.someContext
    exact List.length_pos_iff.mp (hlen ▸ hpos)
  oneStop := exec_oneStop he

/-- A refusal recorded where no fault is keeps the invariant. -/
theorem State.Inv.refusedBy {s : State} (hs : s.Inv) (hf : s.fault = none) (x : Refusal) : (s.refusedBy x).Inv :=
  ⟨hs.lastConfig, hs.channels, hs.someContext, .inl hf⟩

/-- The invariant does not speak of the commands issued. -/
theorem State.Inv.withCommands {s : State} (hs : s.Inv) (l : List Command) : State.Inv { s with commands := l } :=
  ⟨hs.lastConfig, hs.channels, hs.someContext, hs.oneStop⟩

/-- Settles O15: a step is idle, an operation, or the refusal of an opcode by a block without a fault. -/
theorem stepKeepsInvariant : Obligations.StepKeepsInvariant := by
  intro s t hs ht
  obtain ⟨hr, ⟨-, rfl⟩ | ⟨c, rest, -, ⟨i, -, he⟩ | ⟨op, -, rfl⟩⟩⟩ := step_next ht
  · exact hs
  · exact exec_keeps_inv (hs.withCommands rest) he
  · exact (hs.withCommands rest).refusedBy hr.1 _

/-! ### The phase is a ghost

Erasing the phases before an operation or only after it makes no difference to the phase-erased end. So the operation
does not read the phase, and two states that differ in phases alone have the same phase-erased end. -/

/-- A context without its ghost phase (R31), as `State.withoutPhases` has it. -/
def Channel.withoutPhase (c : Channel) : Channel := { c with phase := .idle }

@[simp] theorem Channel.withoutPhase_muxIndex (c : Channel) : c.withoutPhase.muxIndex = c.muxIndex := rfl

@[simp] theorem Channel.withoutPhase_gain (c : Channel) : c.withoutPhase.gain = c.gain := rfl

@[simp] theorem Channel.withoutPhase_sampleRate (c : Channel) : c.withoutPhase.sampleRate = c.sampleRate := rfl

/-- The config byte has no phase in it (R28). -/
@[simp] theorem configByte_withoutPhase (c : Channel) : configByte c.withoutPhase = configByte c := rfl

/-- What an operation ends in, with the phases erased. -/
def erasePhases {α : Type} (r : OpOutcome α × State) : OpOutcome α × State := (r.1, r.2.withoutPhases)

@[simp] theorem erasePhases_mk {α : Type} (o : OpOutcome α) (s : State) :
    erasePhases (o, s) = (o, s.withoutPhases) := rfl

@[simp] theorem erasePhases_fst {α : Type} (r : OpOutcome α × State) : (erasePhases r).1 = r.1 := rfl

@[simp] theorem erasePhases_snd {α : Type} (r : OpOutcome α × State) :
    (erasePhases r).2 = r.2.withoutPhases := rfl

/-- What a step answers, with the phases erased. -/
def stepWithoutPhases : Host.Outcome State Fault Refusal → Host.Outcome State Fault Refusal
  | .next s => .next s.withoutPhases
  | .fault f => .fault f
  | .refused r => .refused r

@[simp] theorem State.withoutPhases_withoutPhases (s : State) :
    s.withoutPhases.withoutPhases = s.withoutPhases := by
  simp [State.withoutPhases]

theorem State.withoutPhases_getElem? (s : State) (h : Nat) :
    s.withoutPhases.ch[h]? = s.ch[h]?.map Channel.withoutPhase := List.getElem?_map

@[simp] theorem State.withoutPhases_setChannel (s : State) (h : Nat) (c : Channel) :
    (s.setChannel h c).withoutPhases = s.withoutPhases.setChannel h c.withoutPhase := by
  simp [State.withoutPhases, State.setChannel, Channel.withoutPhase, List.map_set]

/-- The end of an operation neither reads nor writes a phase. -/
theorem finish_withoutPhases (r : OpOutcome Value × State) :
    (finish r).withoutPhases = finish (erasePhases r) := by
  obtain ⟨o, s⟩ := r
  cases o <;> rfl

/-- A sequence reads no phase where its continuation reads none. -/
theorem erasePhases_andThen {α β : Type} {k k' : α → OpOutcome β × State} (r : OpOutcome α) (s : State)
    (blind : ∀ v, erasePhases (k' v) = erasePhases (k v)) :
    erasePhases (r.andThen s.withoutPhases k') = erasePhases (r.andThen s k) := by
  cases r with
  | ok v => exact blind v
  | _ => simp [OpOutcome.andThen]

/-- `INITIATE` neither reads nor writes a phase. -/
theorem initiateDevice_withoutPhases (w : Byte) (s : State) :
    initiateDevice w s.withoutPhases = erasePhases (initiateDevice w s) := by
  have hanswer : s.withoutPhases.nextWriteAnswer = s.nextWriteAnswer := rfl
  unfold initiateDevice
  rw [busWrite_eq, busWrite_eq, hanswer]
  cases s.nextWriteAnswer <;> rfl

/-- `GET_CONV` neither reads nor writes a phase. -/
theorem getConversion_withoutPhases (rate : Rat) (s : State) :
    getConversion rate s.withoutPhases = erasePhases (getConversion rate s) := by
  have hanswer : s.withoutPhases.nextReadAnswer = s.nextReadAnswer := rfl
  unfold getConversion
  cases checkWidth rate with
  | ok r =>
    simp only [OpOutcome.andThen, State.withoutPhases_dev]
    cases s.dev.lastConfig with
    | unwritten => rfl
    | byte cmd =>
      simp only [busRead, hanswer]
      cases readFrame? s.nextReadAnswer <;> rfl
  | _ => rfl

/-- `GET_RAW` makes a phase `Idle`, which is the erased one, and reads none. -/
theorem getRawCode_withoutPhases (h : Nat) (c : Channel) (s : State) :
    getRawCode h c.withoutPhase s.withoutPhases = erasePhases (getRawCode h c s) := by
  unfold getRawCode
  rw [Channel.withoutPhase_sampleRate, getConversion_withoutPhases]
  obtain ⟨o, u⟩ := getConversion (rateSps c.sampleRate) s
  cases o with
  | ok code => simp [Channel.withoutPhase]
  | _ => rfl

/-! ### Behind the gate -/

/-- An operation that does not read the phases gives the same phase-erased step without them. -/
theorem operate_withoutPhases {s : State} {op : State → OpOutcome Value × State}
    (blind : erasePhases (op s.withoutPhases) = erasePhases (op s)) :
    stepWithoutPhases (operate s.withoutPhases op) = stepWithoutPhases (operate s op) := by
  unfold operate gate
  rw [State.withoutPhases_fault, State.withoutPhases_refused]
  split
  · rfl
  · rfl
  · simp only [stepWithoutPhases, finish_withoutPhases, blind]

/-- A pure operation does not read the phases. -/
theorem compute_withoutPhases (s : State) (r : OpOutcome Value) :
    stepWithoutPhases (compute s.withoutPhases r) = stepWithoutPhases (compute s r) :=
  operate_withoutPhases (by simp)

/-- A channel operation that does not read the phases gives the same phase-erased step without them. -/
theorem operateOn_withoutPhases {s : State} {h : Nat} {op : Channel → State → OpOutcome Value × State}
    (blind : ∀ c, erasePhases (op c.withoutPhase s.withoutPhases) = erasePhases (op c s)) :
    stepWithoutPhases (operateOn h s.withoutPhases op) = stepWithoutPhases (operateOn h s op) := by
  refine operate_withoutPhases ?_
  rw [State.withoutPhases_getElem?]
  cases s.ch[h]? with
  | none => simp
  | some c => exact blind c

/-- No operation reads the phases (R31). -/
theorem exec_withoutPhases (i : Instr) (s : State) :
    stepWithoutPhases (exec i s.withoutPhases) = stepWithoutPhases (exec i s) := by
  cases i with
  | initiate w =>
    simp only [exec, execInitiate]
    exact operate_withoutPhases (by simp [initiateDevice_withoutPhases])
  | getConv rate =>
    simp only [exec, execGetConv]
    exact operate_withoutPhases (by simp [getConversion_withoutPhases])
  | activeChan => exact operate_withoutPhases (by simp [activeChannel])
  | validateChan index => exact operate_withoutPhases (by simp)
  | configure h gain rate b =>
    simp only [exec, execConfigure]
    refine operateOn_withoutPhases fun c => ?_
    refine erasePhases_andThen _ s fun g => erasePhases_andThen _ s fun r => ?_
    simp [Channel.withoutPhase]
  | start h =>
    simp only [exec, execStart]
    refine operateOn_withoutPhases fun c => ?_
    rw [configByte_withoutPhase, initiateDevice_withoutPhases]
    refine erasePhases_andThen _ _ fun _ => ?_
    simp [Channel.withoutPhase]
  | convTime h => exact operateOn_withoutPhases fun c => by simp
  | getRaw h =>
    simp only [exec, execGetRaw]
    exact operateOn_withoutPhases fun c => by simp [getRawCode_withoutPhases]
  | getVolts h =>
    simp only [exec, execGetVolts]
    exact operateOn_withoutPhases fun c => by simp [getRawCode_withoutPhases]
  | isActive h => exact operateOn_withoutPhases fun c => by simp [activeChannel]
  | chCfg h => exact operateOn_withoutPhases fun c => by simp
  | _ => exact compute_withoutPhases s _

/-- A step whose phase-erased answer is a next state answers a next state that differs in phases alone. -/
theorem eq_next_of_stepWithoutPhases {o : Host.Outcome State Fault Refusal} {t : State}
    (h : stepWithoutPhases o = .next t) : ∃ t', o = .next t' ∧ t'.withoutPhases = t := by
  cases o with
  | next t' => exact ⟨t', rfl, Host.Outcome.next.inj h⟩
  | fault f => cases h
  | refused r => cases h

/-- Settles O25: both states have the phase-erased end of the one state they are without their phases. -/
theorem phasesInfluenceNothing : Obligations.PhasesInfluenceNothing := by
  intro s s' t i hsame he
  have herased : stepWithoutPhases (exec i s') = .next t.withoutPhases :=
    calc stepWithoutPhases (exec i s')
      _ = stepWithoutPhases (exec i s'.withoutPhases) := (exec_withoutPhases i s').symm
      _ = stepWithoutPhases (exec i s.withoutPhases) := by rw [hsame]
      _ = stepWithoutPhases (exec i s) := exec_withoutPhases i s
      _ = .next t.withoutPhases := by rw [he]; rfl
  obtain ⟨t', ht', ht⟩ := eq_next_of_stepWithoutPhases herased
  exact ⟨t', ht', ht.symm⟩

end Sys2Proof.Machine
end

section
/-! PROOFS of the memory statements (20_memory.md): what an operation can do on the bus, said once. That there is at
most one transaction, and that the operations which only compute leave everything alone, follow from that. -/

namespace Sys2Proof.Machine

/-! ### What an operation can do on the bus -/

/-- `BusUse s i t`: operation `i` on `s`, ending in `t`, performed no transaction, or the one write of an initiation,
or the one read of a reader, and used up that transaction's answer alone (R41, R42, R154). -/
inductive BusUse (s : State) (i : Instr) (t : State) : Prop where
  | none (notInitiates : ∀ w, ¬Initiates s i w) (txns : t.txns = s.txns)
      (writeAnswers : t.writeAnswers = s.writeAnswers) (readAnswers : t.readAnswers = s.readAnswers)
  | write {w} (initiates : Initiates s i w) (txns : t.txns = .write s.dev.address (setStart w) :: s.txns)
      (writeAnswers : t.writeAnswers = s.writeAnswers.tail) (readAnswers : t.readAnswers = s.readAnswers)
  | read {cmd} (reads : ReadsBus i) (cached : s.dev.lastConfig = .byte cmd)
      (txns : t.txns = .read s.dev.address cmd 3 :: s.txns)
      (writeAnswers : t.writeAnswers = s.writeAnswers) (readAnswers : t.readAnswers = s.readAnswers.tail)

/-- An operation initiates nothing exactly when it is neither `INITIATE` nor the `START` of a context. -/
theorem not_initiates_iff {s : State} {i : Instr} :
    (∀ w, ¬Initiates s i w) ↔ (∀ w, i ≠ .initiate w) ∧ ∀ h, h < s.ch.length → i ≠ .start h := by
  constructor
  · intro hn
    refine ⟨fun w hi => hn w (.inl hi), fun h hlt hi => ?_⟩
    exact hn _ (.inr ⟨h, s.ch[h], hi, List.getElem?_eq_getElem hlt, rfl⟩)
  · rintro ⟨notInitiate, notStart⟩ w (hi | ⟨h, c, hi, hc, -⟩)
    · exact notInitiate w hi
    · exact notStart h (List.getElem?_eq_some_iff.mp hc).1 hi

/-- Each effect of an operation makes one use of the bus. -/
theorem Effect.busUse {s u : State} {i : Instr} {o : OpOutcome Value} (heff : Effect s i o u) : BusUse s i u := by
  cases heff with
  | none notInitiate notStart => exact .none (not_initiates_iff.mpr ⟨notInitiate, notStart⟩) rfl rfl rfl
  | configure => exact .none (by simp [Initiates]) rfl rfl rfl
  | initiate | initiateFailed => exact .write (.inl rfl) rfl rfl rfl
  | start context | startFailed context => exact .write (.inr ⟨_, _, rfl, context, rfl⟩) rfl rfl rfl
  | readFailed cached reads | readNotReady cached _ _ reads => exact .read reads cached rfl rfl rfl
  | getConv cached => exact .read (.inl ⟨_, rfl⟩) cached rfl rfl rfl
  | getRaw _ cached => exact .read (.inr ⟨_, .inl rfl⟩) cached rfl rfl rfl
  | getVolts _ cached => exact .read (.inr ⟨_, .inr rfl⟩) cached rfl rfl rfl

/-- The end of an operation does not touch the bus. -/
theorem BusUse.finish {s u : State} {i : Instr} {o : OpOutcome Value} (h : BusUse s i u) :
    BusUse s i (finish (o, u)) := by
  obtain ⟨-, -, -, hwrite, hread, htxns, -⟩ := finish_frame (o, u)
  cases h with
  | none notInitiates txns writeAnswers readAnswers =>
    exact .none notInitiates (htxns.trans txns) (hwrite.trans writeAnswers) (hread.trans readAnswers)
  | write initiates txns writeAnswers readAnswers =>
    exact .write initiates (htxns.trans txns) (hwrite.trans writeAnswers) (hread.trans readAnswers)
  | read reads cached txns writeAnswers readAnswers =>
    exact .read reads cached (htxns.trans txns) (hwrite.trans writeAnswers) (hread.trans readAnswers)

/-- An operation that answers a next state made one use of the bus. -/
theorem exec_busUse {s t : State} {i : Instr} (he : exec i s = .next t) : BusUse s i t := by
  obtain ⟨-, o, u, heff, rfl⟩ := exec_effect he
  exact heff.busUse.finish

/-- Settles O18, by the three uses of the bus; a `START` on a bad handle is among the operations that initiate
nothing. -/
theorem atMostOneTransaction : Obligations.AtMostOneTransaction := by
  intro s t i he
  cases exec_busUse he with
  | none notInitiates txns writeAnswers readAnswers =>
    exact .inl ⟨txns, writeAnswers, readAnswers, not_initiates_iff.mp notInitiates⟩
  | write initiates txns writeAnswers readAnswers =>
    exact .inr (.inr (.inl ⟨writeAnswers, readAnswers, _, txns, initiates⟩))
  | read reads cached txns writeAnswers readAnswers =>
    exact .inr (.inr (.inr ⟨writeAnswers, readAnswers, _, cached, txns, reads⟩))

/-! ### The frame of the operations that only compute -/

/-- No operation issues or withdraws a command. -/
theorem exec_commands {s t : State} {i : Instr} (he : exec i s = .next t) : t.commands = s.commands := by
  obtain ⟨-, o, u, heff, rfl⟩ := exec_effect he
  obtain ⟨-, -, hcommands, -⟩ := heff.bookkeeping
  obtain ⟨-, -, hfinish, -⟩ := finish_frame (o, u)
  exact hfinish.trans hcommands

/-- An operation that initiates nothing leaves the Device alone. -/
theorem exec_device_of_not_initiates {s t : State} {i : Instr} (he : exec i s = .next t)
    (notInitiates : ∀ w, ¬Initiates s i w) : t.dev = s.dev := by
  obtain hdev | ⟨-, w, initiates, -⟩ := exec_device he
  · exact hdev
  · exact absurd initiates (notInitiates w)

/-- An operation that may write no context leaves all of them alone. -/
theorem exec_contexts_of_not_contextWrite {s t : State} {i : Instr} (he : exec i s = .next t)
    (notWrite : ∀ h c c', ¬ContextWrite h c i c') : t.ch = s.ch := by
  obtain hch | ⟨h, c, c', -, hw, -⟩ := exec_contexts he
  · exact hch
  · exact absurd hw (notWrite h c c')

/-- An operation that neither initiates nor reads leaves the bus alone. -/
theorem exec_bus_of_not_initiates_of_not_readsBus {s t : State} {i : Instr} (he : exec i s = .next t)
    (notInitiates : ∀ w, ¬Initiates s i w) (notReads : ¬ReadsBus i) :
    t.writeAnswers = s.writeAnswers ∧ t.readAnswers = s.readAnswers ∧ t.txns = s.txns := by
  cases exec_busUse he with
  | none _ txns writeAnswers readAnswers => exact ⟨writeAnswers, readAnswers, txns⟩
  | write initiates => exact absurd initiates (notInitiates _)
  | read reads => exact absurd reads notReads

/-- Settles O23: none of the sixteen operations initiates, writes a context or reads the bus. -/
theorem pureOperationsFrame : Obligations.PureOperationsFrame := by
  intro s t w b0 b1 b2 gain index count raw maxCode rate b h i hi he
  have notInitiates : ∀ w, ¬Initiates s i w := by
    rintro _ (rfl | ⟨_, _, rfl, -⟩) <;> simp at hi
  have notWrite : ∀ h c c', ¬ContextWrite h c i c' := by
    intro _ _ _ hw
    cases hw <;> simp at hi
  have notReads : ¬ReadsBus i := by
    rintro (⟨_, rfl⟩ | ⟨_, rfl | rfl⟩) <;> simp at hi
  exact ⟨exec_device_of_not_initiates he notInitiates, exec_contexts_of_not_contextWrite he notWrite,
    exec_commands he, exec_bus_of_not_initiates_of_not_readsBus he notInitiates notReads⟩

/-! ### The frame of a read answer -/

/-- Settles O19: one direction is the inversion of `readFrame?`, the other its first equation. -/
theorem frameIsExactlyThreeBytes : Obligations.FrameIsExactlyThreeBytes := by
  intro a f
  constructor
  · exact readFrame?_eq_some
  · rintro rfl
    rfl

end Sys2Proof.Machine
end

section
/-! PROOFS of the encoding statements (30_encoding.md R60 to R77): the decoder against the encoder, the fields of the
configuration word, and the expansions of the pseudo-instructions. -/

namespace Sys2Proof

/-! ### The decoder and the encoder -/

/-- Settles O1: an operation's encoding has its opcode and its operands, and that is what decoding to it means. -/
theorem decodeEncodeRoundTrip : Obligations.DecodeEncodeRoundTrip :=
  fun i => (decode_eq_ok_iff (encode i) i).mpr ⟨rfl, rfl⟩

/-- A command decodes to an operation exactly when it is that operation's encoding (R75). -/
theorem decode_eq_ok_iff_encode_eq (c : Command) (i : Instr) : decode c = .ok i ↔ encode i = c := by
  rw [decode_eq_ok_iff]
  obtain ⟨op, operands, fits⟩ := c
  simp [encode, eq_comm]

/-- An operation is well formed exactly when all its operands are values of their types (R73). -/
theorem Instr.wf_eq_operands_all_wf (i : Instr) : i.wf = i.operands.all Operand.wf := by
  cases i <;> simp [Instr.wf, Instr.operands, Operand.wf]

/-- Settles O2: the decoded operation has the command's operands, so it is well formed as they are; and the map finds
the operation of every opcode in it. -/
theorem decodedCommandIsItsEncoding : Obligations.DecodedCommandIsItsEncoding := by
  constructor
  · intro c i hd
    obtain ⟨-, hoperands⟩ := (decode_eq_ok_iff c i).mp hd
    exact ⟨(decode_eq_ok_iff_encode_eq c i).mp hd, hoperands ▸ i.wf_eq_operands_all_wf⟩
  · intro c o hop
    obtain ⟨i, hd, hi, -⟩ := decode_of_ofByte? ((Op.ofByte?_eq_some_iff c.op o).mpr hop.symm)
    exact ⟨i, hd, hi⟩

/-- Settles O3: each written command is the encoding of its operation. -/
theorem writtenCommandsDecode : Obligations.WrittenCommandsDecode := by
  refine ⟨?_, ?_, ?_, ?_, ?_⟩ <;> exact (decode_eq_ok_iff_encode_eq _ _).mpr rfl

/-- The opcodes of the map are distinct (R72). -/
theorem Op.byte_injective : Function.Injective Op.byte := by
  intro o o' hb
  have hfound : Op.ofByte? o.byte = some o' := (Op.ofByte?_eq_some_iff _ _).mpr hb.symm
  exact Option.some.inj (((Op.ofByte?_eq_some_iff _ _).mpr rfl).symm.trans hfound)

/-- A byte is its two nibbles. -/
theorem byte_eq_of_nibbles_eq {a b : Byte} (high : a.extractLsb' 4 4 = b.extractLsb' 4 4)
    (low : a.extractLsb' 0 4 = b.extractLsb' 0 4) : a = b := by
  have hh := congrArg BitVec.toNat high
  have hl := congrArg BitVec.toNat low
  simp only [BitVec.extractLsb'_toNat, Nat.shiftRight_eq_div_pow] at hh hl
  apply BitVec.eq_of_toNat_eq
  omega

/-- Settles O4: the families are read off the map; two opcodes with the same nibbles are one byte, and so one
operation. -/
theorem commandFormat : Obligations.CommandFormat := by
  refine ⟨?format, by decide, by decide, by decide, by decide, by decide, ?distinct⟩
  case format => intro i; cases i <;> exact ⟨rfl, rfl⟩
  case distinct => exact fun o o' high low => Op.byte_injective (byte_eq_of_nibbles_eq high low)

/-- Settles O5: the case of `step` where the next command decodes. -/
theorem stepRunsDecodedOperation : Obligations.StepRunsDecodedOperation :=
  fun _ _ _ _ hs hc hd => Machine.step_of_decode_ok hs hc hd

end Sys2Proof

namespace Sys2Proof.Machine

/-! ### The fields of the configuration word -/

/-- Settles O26: the tables, row by row. -/
theorem fieldCodesAndRateTable : Obligations.FieldCodesAndRateTable := by
  refine ⟨by decide, ?gains, by decide, ?sps240, ?sps60, ?sps15, ?sps3p75, ?rates⟩
  case gains => intro g; cases g <;> decide
  case sps240 => exact ⟨rfl, rfl, rfl, rfl⟩
  case sps60 => exact ⟨rfl, rfl, rfl, rfl⟩
  case sps15 => exact ⟨rfl, rfl, rfl, rfl⟩
  case sps3p75 => exact ⟨rate3p75_eq, rfl, rfl, rfl⟩
  case rates => intro r; cases r <;> decide

/-- The composed word as its fields side by side, most significant first (R60). -/
theorem compose_eq_append (m : MuxCode) (b : Bool) (r : Rate) (g : Gain) :
    compose m b r g = 0#1 ++ m ++ contBit b ++ rateCode r ++ gainCode g := by
  have fields : ∀ (m : BitVec 2) (c : BitVec 1) (r g : BitVec 2),
      (m.setWidth 8 <<< 5) ||| (c.setWidth 8 <<< 4) ||| (r.setWidth 8 <<< 2) ||| g.setWidth 8 =
        0#1 ++ m ++ c ++ r ++ g := by decide
  exact fields m (contBit b) (rateCode r) (gainCode g)

/-- Words side by side are their sum, the high one shifted. -/
theorem toNat_append_eq_add {k n : Nat} (x : BitVec k) (y : BitVec n) :
    (x ++ y).toNat = x.toNat * 2 ^ n + y.toNat := by
  rw [BitVec.toNat_append, ← Nat.shiftLeft_add_eq_or_of_lt y.isLt, Nat.shiftLeft_eq]

/-- Bit 7 of a composed word, the start bit, is clear (R66). -/
theorem compose_getLsbD_seven (m : MuxCode) (b : Bool) (r : Rate) (g : Gain) :
    (compose m b r g).getLsbD 7 = false := by
  simp only [compose_eq_append, BitVec.getLsbD_append]
  simp

/-- A value inside its field, outside the mask `m1` of what a write of that field keeps, is kept by the write of
another field: its mask `m2` covers the bits that `m1` leaves out. -/
theorem and_otherMask_eq_self {v m1 m2 : Byte} (inField : v &&& m1 = 0#8) (cover : m1 ||| m2 = BitVec.allOnes 8) :
    v &&& m2 = v :=
  calc v &&& m2
    _ = v &&& m1 ||| v &&& m2 := by rw [inField, BitVec.zero_or]
    _ = v &&& (m1 ||| m2) := BitVec.and_or_distrib_left.symm
    _ = v := by rw [cover, BitVec.and_allOnes]

/-- The writes of two fields commute, whatever the word: each leaves the other's value alone. -/
theorem maskedWrite_commute {m1 m2 v1 v2 : Byte} (cover : m1 ||| m2 = BitVec.allOnes 8) (in1 : v1 &&& m1 = 0#8)
    (in2 : v2 &&& m2 = 0#8) : Function.Commute (fun w : Byte => w &&& m1 ||| v1) (fun w => w &&& m2 ||| v2) := by
  have keep1 : v1 &&& m2 = v1 := and_otherMask_eq_self in1 cover
  have keep2 : v2 &&& m1 = v2 := and_otherMask_eq_self in2 (BitVec.or_comm m1 m2 ▸ cover)
  intro w
  simp only [BitVec.and_or_distrib_right, keep1, keep2]
  ac_rfl

/-! Each field's value is clear of the mask of what a write of that field keeps. -/

theorem mux_in_field : ∀ m : MuxCode, m.setWidth 8 <<< 5 &&& (0x9F : Byte) = 0#8 := by decide

theorem contBit_in_field (b : Bool) : (contBit b).setWidth 8 <<< 4 &&& (0xEF : Byte) = 0#8 := by cases b <;> rfl

theorem rateCode_in_field (r : Rate) : (rateCode r).setWidth 8 <<< 2 &&& (0xF3 : Byte) = 0#8 := by cases r <;> rfl

theorem gainCode_in_field (g : Gain) : (gainCode g).setWidth 8 &&& (0xFC : Byte) = 0#8 := by cases g <;> rfl

/-- The four field encoders commute, whatever they write (R110). -/
theorem fieldEncoders_pairwise_commute (m : MuxCode) (b : Bool) (r : Rate) (g : Gain) :
    [fun w => putMux w m, fun w => putCont w b, fun w => putRate w r, fun w => putGain w g].Pairwise
      Function.Commute := by
  have hm := mux_in_field m
  have hb := contBit_in_field b
  have hr := rateCode_in_field r
  have hg := gainCode_in_field g
  simp only [List.pairwise_cons, List.forall_mem_cons, List.not_mem_nil, false_imp_iff, forall_const, and_true,
    List.Pairwise.nil]
  exact ⟨⟨maskedWrite_commute rfl hm hb, maskedWrite_commute rfl hm hr, maskedWrite_commute rfl hm hg⟩,
    ⟨maskedWrite_commute rfl hb hr, maskedWrite_commute rfl hb hg⟩, maskedWrite_commute rfl hr hg⟩

/-- The four field encoders, the mux first, compose the word from 0x00 (R66). -/
theorem fieldEncoders_of_zero (m : MuxCode) (b : Bool) (r : Rate) (g : Gain) :
    putGain (putRate (putCont (putMux 0 m) b) r) g = compose m b r g := by
  have hm mask := and_otherMask_eq_self (m2 := mask) (mux_in_field m)
  have hb mask := and_otherMask_eq_self (m2 := mask) (contBit_in_field b)
  have hr mask := and_otherMask_eq_self (m2 := mask) (rateCode_in_field r)
  simp only [putGain, putRate, putCont, putMux, compose, BitVec.ofNat_eq_ofNat, BitVec.zero_and, BitVec.zero_or,
    BitVec.and_or_distrib_right]
  rw [hm 0xEF#8 rfl, hm 0xF3#8 rfl, hm 0xFC#8 rfl, hb 0xF3#8 rfl, hb 0xFC#8 rfl, hr 0xFC#8 rfl]

/-- Functions that commute can be applied in any order. -/
theorem foldl_apply_eq_of_perm {α : Type} {l l' : List (α → α)} (hperm : l.Perm l')
    (hcomm : l'.Pairwise Function.Commute) (x : α) :
    l.foldl (fun y f => f y) x = l'.foldl (fun y f => f y) x := by
  have hsymm : Std.Symm (Function.Commute (α := α)) := ⟨fun _ _ h => h.symm⟩
  have hall := hcomm.forall_of_forall fun f _ => Function.Commute.refl f
  exact hperm.foldl_eq' (fun f hf k hk y => hall (hperm.subset hk) (hperm.subset hf) y) x

/-- Settles O27: the fields stand side by side in the word, bit 7 before them; and the field encoders commute, so
that one order of them stands for all. -/
theorem compositionIsSumOfFields : Obligations.CompositionIsSumOfFields := by
  intro m b r g
  refine ⟨?sum, compose_getLsbD_seven m b r g, ?orders⟩
  case sum =>
    simp only [compose_eq_append, toNat_append_eq_add, BitVec.toNat_zero]
    omega
  case orders =>
    intro l hperm
    exact (foldl_apply_eq_of_perm hperm (fieldEncoders_pairwise_commute m b r g) 0).trans
      (fieldEncoders_of_zero m b r g)

/-! ### The lines of the caller -/

/-- The caller's names without those of a line that returned no result, as `bindOutcome` and `runLine` leave them. -/
def unbind (env : Env) (binds : List String) : Env := env.filter fun p => !binds.contains p.1

/-- The first name of such a line is bound to nothing. -/
theorem lookup_unbind_head (env : Env) (n : String) (binds : List String) :
    (unbind env (n :: binds)).lookup n = none := by
  rw [List.lookup_eq_none_iff]
  rintro ⟨x, o⟩ hp
  have hx : x ∉ n :: binds := by simpa using (List.mem_filter.mp hp).2
  simpa using (List.ne_of_not_mem_cons hx).symm

/-- To return a result or an error stops no block (R219). -/
theorem State.Running.reply {s : State} (hs : s.Running) (o : OpOutcome Value) : (s.reply o).Running := hs

/-- A name bound to nothing leaves the operands of its line without a value. -/
theorem mapM_resolve_name_of_unbound {env : Env} {n : String} (hn : env.lookup n = none) (args : List Arg) :
    (Arg.name n :: args).mapM (Arg.resolve env) = none := by
  simp [Arg.resolve, hn]

/-- A bound name and a literal are the two operands of a line. -/
theorem mapM_resolve_name_lit {env : Env} {n : String} {o : Operand} (hn : env.lookup n = some o) (o' : Operand) :
    [Arg.name n, .lit o'].mapM (Arg.resolve env) = some [o, o'] := by
  simp [Arg.resolve, hn]

/-- Lines whose first one runs go on where it ends (R49). -/
theorem runLines_cons {l : Line} {env env1 : Env} {s s1 : State} (h : runLine l env s = .next (env1, s1))
    (rest : List Line) : runLines (l :: rest) env s = runLines rest env1 s1 := by
  simp [runLines, h]

/-! ### Lines that compute -/

/-- `LinesReply lines env s n x os`: the lines, run on the block `s` to their end, do nothing to it but return the
outcomes `os`, newest first, and leave the name `n` bound to `x`. -/
def LinesReply (lines : List Line) (env : Env) (s : State) (n : String) (x : Option Operand)
    (os : List (OpOutcome Value)) : Prop :=
  ∃ env' : Env, runLines lines env s = .next (env', { s with outcomes := os ++ s.outcomes }) ∧ env'.lookup n = x

/-- No line leaves the names and the block as they are. -/
theorem LinesReply.nil {env : Env} {s : State} {n : String} {x : Option Operand} (hn : env.lookup n = x) :
    LinesReply [] env s n x [] :=
  ⟨env, rfl, hn⟩

/-- A line whose operation only returns an outcome. -/
theorem LinesReply.issued {rest : List Line} {env : Env} {s : State} {n : String} {x : Option Operand}
    {os : List (OpOutcome Value)} {binds : List String} {args : List Arg} {i : Instr} {o : OpOutcome Value}
    (hs : s.Running) (ha : args.mapM (Arg.resolve env) = some i.operands) (he : exec i s = .next (s.reply o))
    (hrest : LinesReply rest (bindOutcome env binds (some o)) (s.reply o) n x os) :
    LinesReply (.command binds i.op args :: rest) env s n x (os ++ [o]) := by
  obtain ⟨env', hrun, hn⟩ := hrest
  refine ⟨env', ?_, hn⟩
  rw [runLines_cons (runLine_of_exec hs ha he)]
  simpa [State.reply] using hrun

/-- A line with a name that is bound to nothing returns no outcome. -/
theorem LinesReply.notIssued {rest : List Line} {env : Env} {s : State} {n : String} {x : Option Operand}
    {os : List (OpOutcome Value)} {binds : List String} {op : Op} {args : List Arg}
    (ha : args.mapM (Arg.resolve env) = none) (hrest : LinesReply rest (unbind env binds) s n x os) :
    LinesReply (.command binds op args :: rest) env s n x os := by
  obtain ⟨env', hrun, hn⟩ := hrest
  exact ⟨env', (runLines_cons (runLine_of_unbound ha) rest).trans hrun, hn⟩

/-! ### The operations the expansions run -/

/-- A checked operation that touches no state returns its result or its error. -/
theorem compute_lift {s : State} (hs : s.Running) (r : Except OpError Value) :
    compute s (.lift r) = .next (s.reply (.lift r)) := by
  rw [compute_of_running hs]
  cases r <;> rfl

/-! The codec operations that the expansions issue, as one outcome each (R101 to R104). -/

theorem exec_setChan {s : State} (hs : s.Running) (w : Byte) (index : Int) (count : ChannelCount) :
    exec (.setChan w index (channelCountValue count)) s =
      .next (s.reply (.lift ((checkChannel count index).map fun m => .word (putMux w m)))) := by
  have hcount : checkCount (channelCountValue count) = .ok count := by
    simp [checkCount, channelCountOf?_value]
  rw [exec, execSetChan, hcount]
  exact compute_lift hs _

theorem exec_setCont {s : State} (hs : s.Running) (w : Byte) (b : Bool) :
    exec (.setCont w b) s = .next (s.reply (.ok (.word (putCont w b)))) := compute_lift hs (.ok _)

theorem exec_setRate {s : State} (hs : s.Running) (w : Byte) (rate : Rat) :
    exec (.setRate w rate) s =
      .next (s.reply (.lift ((checkRate rate).map fun r => .wordMaxCode (putRate w r) (rateMaxCode r)))) :=
  compute_lift hs _

theorem exec_setGain {s : State} (hs : s.Running) (w : Byte) (gain : Int) :
    exec (.setGain w gain) s = .next (s.reply (.lift ((checkGain gain).map fun g => .word (putGain w g)))) :=
  compute_lift hs _

/-! ### What passes the checks of operands -/

theorem gain_mem_iff {gain : Int} : gain ∈ ([1, 2, 4, 8] : List Int) ↔ ∃ g : Gain, gain = gainValue g := by
  constructor
  · intro hmem
    simp only [List.mem_cons, List.not_mem_nil, or_false] at hmem
    obtain rfl | rfl | rfl | rfl := hmem
    exacts [⟨.x1, rfl⟩, ⟨.x2, rfl⟩, ⟨.x4, rfl⟩, ⟨.x8, rfl⟩]
  · rintro ⟨g, rfl⟩
    cases g <;> decide

theorem rate_mem_iff {rate : Rat} :
    rate ∈ ([15, 60, 240] : List Rat) ↔ ∃ r : Rate, rateSettable r = true ∧ rate = rateSps r := by
  constructor
  · intro hmem
    simp only [List.mem_cons, List.not_mem_nil, or_false] at hmem
    obtain rfl | rfl | rfl := hmem
    exacts [⟨.sps15, rfl, rfl⟩, ⟨.sps60, rfl, rfl⟩, ⟨.sps240, rfl, rfl⟩]
  · rintro ⟨r, hr, rfl⟩
    cases r with
    | sps3p75 => cases hr
    | _ => decide

theorem checkGain_of_not_mem {gain : Int} (h : gain ∉ ([1, 2, 4, 8] : List Int)) :
    checkGain gain = .error (.invalidArgument .gain (.int gain)) := by
  obtain ⟨g, hg, -⟩ | ⟨-, herror⟩ := checkGain_cases gain
  · exact absurd (gain_mem_iff.mpr ⟨g, hg⟩) h
  · exact herror

theorem checkRate_of_mem {rate : Rat} (h : rate ∈ ([15, 60, 240] : List Rat)) : ∃ r, checkRate rate = .ok r := by
  obtain ⟨r, hr, rfl⟩ := rate_mem_iff.mp h
  exact ⟨r, checkRate_rateSps hr⟩

theorem checkRate_of_not_mem {rate : Rat} (h : rate ∉ ([15, 60, 240] : List Rat)) :
    checkRate rate = .error (.invalidArgument .rate (.rat rate)) := by
  obtain ⟨r, hrate, hr, -⟩ | ⟨-, herror⟩ := checkRate_cases rate
  · exact absurd (rate_mem_iff.mpr ⟨r, hr, hrate⟩) h
  · exact herror

/-- A mux code of the variant is the index of the same number (R64, R104). -/
theorem checkChannel_toNat {count : ChannelCount} {m : MuxCode} (h : m.toNat < channelCountValue count) :
    checkChannel count m.toNat = .ok m := by
  have hvalid : 0 ≤ (m.toNat : Int) ∧ (m.toNat : Int) < channelCountValue count := by omega
  simp [checkChannel, hvalid]

theorem checkChannel_of_valid {count : ChannelCount} {index : Int}
    (h : 0 ≤ index ∧ index < channelCountValue count) : ∃ m, checkChannel count index = .ok m :=
  ⟨_, if_pos h⟩

theorem checkChannel_of_invalid {count : ChannelCount} {index : Int}
    (h : ¬(0 ≤ index ∧ index < channelCountValue count)) :
    checkChannel count index = .error (.invalidArgument .channel (.int index)) :=
  if_neg h

/-! ### COMPOSE

The expansion computes `composeCheck`. The lines are followed from the last one up: each with its name `t1`, `t2` or
`t3` bound to the word of the line before, and with it bound to nothing, after an error. -/

/-- The composed word, or the error of the first operand that is invalid: index, rate, gain (R77). -/
def composeCheck (count : ChannelCount) (index : Int) (b : Bool) (rate : Rat) (gain : Int) : Except OpError Byte :=
  (checkChannel count index).bind fun m =>
    (checkRate rate).bind fun r => (checkGain gain).map fun g => compose m b r g

theorem composeCheck_of_valid {count : ChannelCount} {m : MuxCode} {r : Rate} (b : Bool) (g : Gain)
    (hm : m.toNat < channelCountValue count) (hr : rateSettable r = true) :
    composeCheck count m.toNat b (rateSps r) (gainValue g) = .ok (compose m b r g) := by
  rw [composeCheck, checkChannel_toNat hm, checkRate_rateSps hr, checkGain_gainValue]
  rfl

theorem composeCheck_of_invalid_index {count : ChannelCount} {index : Int} (b : Bool) (rate : Rat) (gain : Int)
    (hindex : ¬(0 ≤ index ∧ index < channelCountValue count)) :
    composeCheck count index b rate gain = .error (.invalidArgument .channel (.int index)) := by
  rw [composeCheck, checkChannel_of_invalid hindex]
  rfl

theorem composeCheck_of_invalid_rate {count : ChannelCount} {index : Int} {rate : Rat} (b : Bool) (gain : Int)
    (hindex : 0 ≤ index ∧ index < channelCountValue count) (hrate : rate ∉ ([15, 60, 240] : List Rat)) :
    composeCheck count index b rate gain = .error (.invalidArgument .rate (.rat rate)) := by
  obtain ⟨m, hm⟩ := checkChannel_of_valid hindex
  rw [composeCheck, hm, checkRate_of_not_mem hrate]
  rfl

theorem composeCheck_of_invalid_gain {count : ChannelCount} {index gain : Int} {rate : Rat} (b : Bool)
    (hindex : 0 ≤ index ∧ index < channelCountValue count) (hrate : rate ∈ ([15, 60, 240] : List Rat))
    (hgain : gain ∉ ([1, 2, 4, 8] : List Int)) :
    composeCheck count index b rate gain = .error (.invalidArgument .gain (.int gain)) := by
  obtain ⟨m, hm⟩ := checkChannel_of_valid hindex
  obtain ⟨r, hr⟩ := checkRate_of_mem hrate
  rw [composeCheck, hm, hr, checkGain_of_not_mem hgain]
  rfl

/-- What a name is bound to by a line that computes `r`. -/
def boundByte : Except OpError Byte → Option Operand
  | .ok w => some (.byte w)
  | .error _ => none

/-- The lines end with the outcome of `r`, and the name `n` bound to its word. -/
def LinesCompute (lines : List Line) (env : Env) (s : State) (n : String) (r : Except OpError Byte) : Prop :=
  ∃ os, LinesReply lines env s n (boundByte r) (.lift (r.map .word) :: os)

/-- A line whose operation only returns an outcome, before lines that compute `r`. -/
theorem LinesCompute.issued {rest : List Line} {env : Env} {s : State} {n : String} {r : Except OpError Byte}
    {binds : List String} {args : List Arg} {i : Instr} {o : OpOutcome Value} (hs : s.Running)
    (ha : args.mapM (Arg.resolve env) = some i.operands) (he : exec i s = .next (s.reply o))
    (hrest : LinesCompute rest (bindOutcome env binds (some o)) (s.reply o) n r) :
    LinesCompute (.command binds i.op args :: rest) env s n r := by
  obtain ⟨os, hrest⟩ := hrest
  exact ⟨os ++ [o], hrest.issued hs ha he⟩

/-- The line `t2 := SET_CONT t1, b` of COMPOSE. -/
def composeContLine (b : Bool) : Line := .command ["t2"] .setCont [.name "t1", .lit (.bool b)]

/-- The line `t3, mc := SET_RATE t2, rate` of COMPOSE. -/
def composeRateLine (rate : Rat) : Line := .command ["t3", "mc"] .setRate [.name "t2", .lit (.rat rate)]

/-- The line `n := SET_GAIN t3, gain` of COMPOSE. -/
def composeGainLine (n : String) (gain : Int) : Line := .command [n] .setGain [.name "t3", .lit (.int gain)]

section Compose
variable {s : State} {env : Env} {w : Byte} (hs : s.Running) (n : String) (gain : Int) (rate : Rat) (b : Bool)

theorem composeGainLine_of_unbound (ht : env.lookup "t3" = none) :
    LinesReply [composeGainLine n gain] env s n none [] :=
  .notIssued (mapM_resolve_name_of_unbound ht _) (.nil (lookup_unbind_head ..))

theorem composeRateLine_of_unbound (ht : env.lookup "t2" = none) :
    LinesReply [composeRateLine rate, composeGainLine n gain] env s n none [] :=
  .notIssued (mapM_resolve_name_of_unbound ht _) (composeGainLine_of_unbound n gain (lookup_unbind_head ..))

theorem composeContLine_of_unbound (ht : env.lookup "t1" = none) :
    LinesReply [composeContLine b, composeRateLine rate, composeGainLine n gain] env s n none [] :=
  .notIssued (mapM_resolve_name_of_unbound ht _) (composeRateLine_of_unbound n gain rate (lookup_unbind_head ..))

include hs

theorem composeGainLine_computes (ht : env.lookup "t3" = some (.byte w)) :
    LinesCompute [composeGainLine n gain] env s n ((checkGain gain).map fun g => putGain w g) := by
  have ha := mapM_resolve_name_lit ht (.int gain)
  have he := exec_setGain hs w gain
  cases hg : checkGain gain with
  | error e =>
    rw [hg] at he
    exact ⟨[], .issued hs ha he (.nil (lookup_unbind_head ..))⟩
  | ok g =>
    rw [hg] at he
    exact ⟨[], .issued hs ha he (.nil (List.lookup_cons_self ..))⟩

theorem composeRateLine_computes (ht : env.lookup "t2" = some (.byte w)) :
    LinesCompute [composeRateLine rate, composeGainLine n gain] env s n
      ((checkRate rate).bind fun r => (checkGain gain).map fun g => putGain (putRate w r) g) := by
  have ha := mapM_resolve_name_lit ht (.rat rate)
  have he := exec_setRate hs w rate
  cases hr : checkRate rate with
  | error e =>
    rw [hr] at he
    exact ⟨[], .issued hs ha he (composeGainLine_of_unbound n gain (lookup_unbind_head ..))⟩
  | ok r =>
    rw [hr] at he
    exact .issued hs ha he (composeGainLine_computes (hs.reply _) n gain (List.lookup_cons_self ..))

theorem composeContLine_computes (ht : env.lookup "t1" = some (.byte w)) :
    LinesCompute [composeContLine b, composeRateLine rate, composeGainLine n gain] env s n
      ((checkRate rate).bind fun r => (checkGain gain).map fun g => putGain (putRate (putCont w b) r) g) := by
  have ha := mapM_resolve_name_lit ht (.bool b)
  refine .issued hs ha (exec_setCont hs w b) ?_
  exact composeRateLine_computes (hs.reply _) n gain rate (List.lookup_cons_self ..)

/-- COMPOSE computes `composeCheck` (R77). -/
theorem compose_computes (index : Int) :
    LinesCompute
      (Pseudo.expand s.dev.channelCount
        (.compose n (.lit (.int index)) (.lit (.bool b)) (.lit (.rat rate)) (.lit (.int gain))))
      env s n (composeCheck s.dev.channelCount index b rate gain) := by
  have ha : [Arg.lit (.byte 0), .lit (.int index), .lit (.int (channelCountValue s.dev.channelCount))].mapM
      (Arg.resolve env) = some (Instr.setChan 0 index (channelCountValue s.dev.channelCount)).operands := rfl
  have he := exec_setChan hs 0 index s.dev.channelCount
  unfold composeCheck
  cases hc : checkChannel s.dev.channelCount index with
  | error e =>
    rw [hc] at he
    exact ⟨[], .issued hs ha he (composeContLine_of_unbound n gain rate b (lookup_unbind_head ..))⟩
  | ok m =>
    rw [hc] at he
    simp only [Except.bind, ← fieldEncoders_of_zero]
    exact .issued hs ha he (composeContLine_computes (hs.reply _) n gain rate b (List.lookup_cons_self ..))

end Compose

/-- Settles O58: the expansion computes `composeCheck`, which is the composed word or the error of the first invalid
operand. -/
theorem composeExpansionGivesComposition : Obligations.ComposeExpansionGivesComposition := by
  intro s env n index gain rate b hs
  obtain ⟨os, env', hrun, hn⟩ := compose_computes (env := env) hs n gain rate b index
  refine ⟨env', _, hrun, rfl, rfl, rfl, hs, rfl, ?composed, ?badIndex, ?badRate, ?badGain⟩
  case composed =>
    rintro m r g rfl hm rfl hr rfl
    rwa [composeCheck_of_valid b g hm hr] at hn
  case badIndex =>
    intro hindex
    rw [composeCheck_of_invalid_index b rate gain hindex] at hn ⊢
    exact ⟨hn, rfl⟩
  case badRate =>
    intro hindex hrate
    rw [composeCheck_of_invalid_rate b gain hindex hrate] at hn ⊢
    exact ⟨hn, rfl⟩
  case badGain =>
    intro hindex hrate hgain
    rw [composeCheck_of_invalid_gain b hindex hrate hgain] at hn ⊢
    exact ⟨hn, rfl⟩

/-! ### VOLTS_OF -/

/-- The rows of the rate table that the statements range over are those of the settable rates (R100). -/
theorem rateRows_settable {row : Rat × Nat × Int × Byte} (hrow : row ∈ rateRows) :
    ∃ r : Rate, rateSettable r = true ∧ row.1 = rateSps r ∧ row.2.1 = rateRes r ∧
      row.2.2.1 = rateMaxCode r := by
  simp only [rateRows, List.mem_cons, List.not_mem_nil, or_false] at hrow
  obtain rfl | rfl | rfl := hrow
  exacts [⟨.sps240, rfl, rfl, rfl, rfl⟩, ⟨.sps60, rfl, rfl, rfl, rfl⟩, ⟨.sps15, rfl, rfl, rfl, rfl⟩]

/-- The scaler's value as one quotient (R190, R193). -/
theorem scaleVolts_eq_div (raw : Int) (g : Gain) (maxCode : Int) :
    scaleVolts raw g maxCode = (raw : Rat) * 256 / (125 * (maxCode : Rat) * (gainValue g : Rat)) := by
  unfold scaleVolts Config.vref
  ring

theorem rateSps_injective : Function.Injective rateSps := by
  intro r r' h
  exact Option.some.inj ((rateOfSps?_rateSps r).symm.trans (h ▸ rateOfSps?_rateSps r'))

theorem checkMaxCode_rateMaxCode {r : Rate} (hr : rateSettable r = true) :
    checkMaxCode (rateMaxCode r) = .ok r := by
  simp [checkMaxCode, rateOfMaxCode?_rateMaxCode, hr]

/-- The full-scale code of a settable rate is not the 18-bit one (R216). -/
theorem rateMaxCode_ne_of_settable {r : Rate} (hr : rateSettable r = true) :
    rateMaxCode r ≠ rateMaxCode .sps3p75 := by
  cases r with
  | sps3p75 => cases hr
  | _ => decide

/-- `SCALE` at a gain of the family and a supported full-scale code (R190, R192). -/
theorem exec_scale {s : State} (hs : s.Running) (raw : Int) (g : Gain) {r : Rate} (hr : rateSettable r = true) :
    exec (.scale raw (gainValue g) (rateMaxCode r)) s =
      .next (s.reply (.ok (.volts (scaleVolts raw g (rateMaxCode r))))) := by
  rw [exec, execScale, if_neg (rateMaxCode_ne_of_settable hr), checkGain_gainValue, checkMaxCode_rateMaxCode hr]
  exact compute_lift hs (.ok _)

/-- VOLTS_OF at a settable rate and a gain of the family returns two results and binds its name to the second. -/
theorem voltsOf_replies {s : State} (hs : s.Running) (env : Env) (n : String) (raw : Int) (g : Gain) {r : Rate}
    (hr : rateSettable r = true) :
    LinesReply (Pseudo.expand s.dev.channelCount
        (.voltsOf n (.lit (.int raw)) (.lit (.int (gainValue g))) (.lit (.rat (rateSps r))))) env s n
      (some (.rat (scaleVolts raw g (rateMaxCode r))))
      [.ok (.volts (scaleVolts raw g (rateMaxCode r))), .ok (.wordMaxCode (putRate 0 r) (rateMaxCode r))] := by
  have hrate : exec (.setRate 0 (rateSps r)) s =
      .next (s.reply (.ok (.wordMaxCode (putRate 0 r) (rateMaxCode r)))) := by
    rw [exec_setRate hs, checkRate_rateSps hr]
    rfl
  have hargs : [Arg.lit (.int raw), .lit (.int (gainValue g)), .name "mc"].mapM
      (Arg.resolve (("t", .byte (putRate 0 r)) :: ("mc", .int (rateMaxCode r)) :: env)) =
        some (Instr.scale raw (gainValue g) (rateMaxCode r)).operands := by
    simp [Arg.resolve, List.lookup_cons, Instr.operands]
  refine .issued (os := [_]) hs rfl hrate ?_
  exact .issued (hs.reply _) hargs (exec_scale (hs.reply _) raw g hr) (.nil (List.lookup_cons_self ..))

/-! ### READ_VOLTS -/

/-- A word without the start bit is cached as it is (R23). -/
theorem clearStart_eq_self {w : Byte} (hw : w.getLsbD 7 = false) : clearStart w = w := by
  have hlt : w.toNat < 2 ^ 7 := BitVec.toNat_lt_of_msb_false hw
  apply BitVec.eq_of_toNat_eq
  calc (clearStart w).toNat
    _ = w.toNat &&& (2 ^ 7 - 1) := BitVec.toNat_and ..
    _ = w.toNat % 2 ^ 7 := Nat.and_two_pow_sub_one_eq_mod ..
    _ = w.toNat := Nat.mod_eq_of_lt hlt

/-- `s` after `START h` on the context `c`, its write answered `Ok` (R171), before the outcome is returned. -/
def State.started (s : State) (h : Nat) (c : Channel) : State :=
  ((s.wrote (setStart (configByte c))).setLastConfig (configByte c)).setChannel h { c with phase := .awaiting }

/-- `s` after a read of the context `c` that gave a code (R173), before the outcome is returned. -/
def State.gotCode (s : State) (cmd : Byte) (h : Nat) (c : Channel) : State :=
  (s.didRead cmd).setChannel h { c with phase := .idle }

/-- `START` of a context, its write answered `Ok` (R171): its config byte has no start bit to clear. -/
theorem exec_start {s : State} {h : Nat} {c : Channel} (hs : s.Running) (hc : s.ch[h]? = some c)
    (hanswer : s.nextWriteAnswer = .ok) : exec (.start h) s = .next ((s.started h c).reply (.ok .unit)) := by
  have hcached : clearStart (configByte c) = configByte c := clearStart_eq_self (compose_getLsbD_seven ..)
  rw [exec, execStart, operateOn_of_running hs hc]
  obtain ⟨-, hinitiate⟩ | ⟨hfailed, -⟩ := initiateDevice_cases (configByte c) s
  · rw [hinitiate, hcached]
    rfl
  · cases hanswer.symm.trans hfailed

/-- A frame that is not ready has no code (R130). -/
theorem decodeFrame_of_not_ready {f : Frame} (hready : f.b2.getLsbD 7 = true) (r : Rate) :
    decodeFrame f r = .raise .conversionNotReady := by
  have hstatus : statusReady f.b2 = false := by rw [statusReady, hready]; rfl
  rw [decodeFrame, hstatus]
  rfl

/-- A ready frame has the code of its three bytes (R46, R68, R130). -/
theorem decodeFrame_of_ready {f : Frame} (hready : f.b2.getLsbD 7 = false) (r : Rate) :
    decodeFrame f r = .ok (frameCode f.b0 f.b1 (rateRes r) (rateMaxCode r)) := by
  have hstatus : statusReady f.b2 = true := by rw [statusReady, hready]; rfl
  have hword : (dataWord f).toNat = f.b0.toNat * 256 + f.b1.toNat := toNat_append_eq_add f.b0 f.b1
  rw [decodeFrame, if_pos hstatus, signedCode, dataField, hword]
  rfl

section GetVolts
variable {s : State} {h : Nat} {c : Channel} {cmd b0 b1 b2 : Byte} (hs : s.Running) (hc : s.ch[h]? = some c)
  (hr : rateSettable c.sampleRate = true) (hcached : s.dev.lastConfig = .byte cmd)
  (hanswer : s.nextReadAnswer = .bytes [b0, b1, b2])

include hr hcached hanswer in
/-- A read that delivers a frame ends as the frame decodes (R151). -/
theorem getConversion_of_frame :
    getConversion (rateSps c.sampleRate) s = (decodeFrame ⟨b0, b1, b2⟩ c.sampleRate, s.didRead cmd) := by
  simp only [getConversion, checkWidth_rateSps hr, OpOutcome.andThen_ok, hcached, busRead_eq, hanswer, readFrame?]

include hs hc hr hcached hanswer

/-- `GET_VOLTS` on a ready frame (R174). -/
theorem exec_getVolts_of_ready (hready : b2.getLsbD 7 = false) :
    exec (.getVolts h) s = .next ((s.gotCode cmd h c).reply (.ok (.volts
      (scaleVolts (frameCode b0 b1 (rateRes c.sampleRate) (rateMaxCode c.sampleRate)) c.gain
        (rateMaxCode c.sampleRate))))) := by
  rw [exec, execGetVolts, operateOn_of_running hs hc, getRawCode, getConversion_of_frame hr hcached hanswer,
    decodeFrame_of_ready (f := ⟨b0, b1, b2⟩) hready]
  rfl

/-- `GET_VOLTS` on a frame that is not ready (R174, R212). -/
theorem exec_getVolts_of_not_ready (hready : b2.getLsbD 7 = true) :
    exec (.getVolts h) s = .next ((s.didRead cmd).reply (.raise .conversionNotReady)) := by
  rw [exec, execGetVolts, operateOn_of_running hs hc, getRawCode, getConversion_of_frame hr hcached hanswer,
    decodeFrame_of_not_ready (f := ⟨b0, b1, b2⟩) hready]
  rfl

end GetVolts

/-- READ_VOLTS on a context whose write is answered `Ok` ends as its `GET_VOLTS` does. -/
theorem readVolts_runs {s t : State} {h : Nat} {c : Channel} (hs : s.Running) (hc : s.ch[h]? = some c)
    (hanswer : s.nextWriteAnswer = .ok) (env : Env)
    (he : exec (.getVolts h) ((s.started h c).reply (.ok .unit)) = .next t) :
    runLines (Pseudo.expand s.dev.channelCount (.readVolts (.lit (.handle h)))) env s =
      .next (bindOutcome env ["v"] t.outcomes.head?, t) := by
  have hstart := runLine_of_exec (env := env) (binds := []) (args := [.lit (.handle h)]) hs rfl
    (exec_start hs hc hanswer)
  have hvolts := runLine_of_exec (s := (s.started h c).reply (.ok .unit)) (env := env) (binds := ["v"])
    (args := [.lit (.handle h)]) hs rfl he
  exact (runLines_cons hstart _).trans (runLines_cons hvolts [])

/-- Settles O59: VOLTS_OF is its two replies; READ_VOLTS is its `GET_VOLTS` on the started block, by the ready bit of
the frame. -/
theorem voltsOfAndReadVoltsExpansions : Obligations.VoltsOfAndReadVoltsExpansions := by
  refine ⟨?voltsOf, ?readVolts⟩
  case voltsOf =>
    intro s env n raw g hs row hrow
    obtain ⟨r, hr, hsps, -, hmax⟩ := rateRows_settable hrow
    rw [hsps, hmax, ← scaleVolts_eq_div]
    obtain ⟨env', hrun, hn⟩ := voltsOf_replies hs env n raw g hr
    exact ⟨env', _, hrun, rfl, rfl, rfl, hs, rfl, hn⟩
  case readVolts =>
    intro s env h c b0 b1 b2 rest hs hc hwrite hread row hrow hrate
    obtain ⟨r, hr, hsps, hres, hmax⟩ := rateRows_settable hrow
    obtain rfl : c.sampleRate = r := rateSps_injective (hrate.trans hsps)
    rw [hres, hmax, ← scaleVolts_eq_div]
    have hlt : h < s.ch.length := (List.getElem?_eq_some_iff.mp hc).1
    have hcontext : ((s.started h c).reply (.ok .unit)).ch[h]? = some { c with phase := .awaiting } :=
      List.getElem?_set_self hlt
    have hanswer : ((s.started h c).reply (.ok .unit)).nextReadAnswer = .bytes [b0, b1, b2] :=
      nextReadAnswer_cons hread
    cases hready : b2.getLsbD 7 with
    | true =>
      have he := exec_getVolts_of_not_ready (s := (s.started h c).reply _) hs hcontext hr rfl hanswer hready
      refine ⟨_, _, readVolts_runs hs hc hwrite env he, rfl, hs, rfl, fun _ => ⟨rfl, ?_, hcontext⟩, nofun⟩
      exact lookup_unbind_head env "v" []
    | false =>
      have he := exec_getVolts_of_ready (s := (s.started h c).reply _) hs hcontext hr rfl hanswer hready
      refine ⟨_, _, readVolts_runs hs hc hwrite env he, rfl, hs, rfl, nofun, fun _ => ⟨?_, ?_⟩⟩
      · exact List.lookup_cons_self ..
      · simp [State.gotCode, State.started, hlt]

end Sys2Proof.Machine
end

section
/-! PROOFS of the codec statements (41_config_codec.md R101 to R111): what each encoder and each read-back answers,
and the laws of the words an encoder returns, which it writes in one field alone. -/

namespace Sys2Proof.Machine

/-! ### SET_GAIN, SET_RATE and SET_CONT -/

theorem gainRows_gain {row : Int × Byte} (hrow : row ∈ gainRows) :
    ∃ g : Gain, row.1 = gainValue g ∧ row.2 = (gainCode g).setWidth 8 := by
  simp only [gainRows, List.mem_cons, List.not_mem_nil, or_false] at hrow
  obtain rfl | rfl | rfl | rfl := hrow
  exacts [⟨.x1, rfl, rfl⟩, ⟨.x2, rfl, rfl⟩, ⟨.x4, rfl, rfl⟩, ⟨.x8, rfl, rfl⟩]

/-- `SET_GAIN` at a gain of the family. -/
theorem exec_setGain_gainValue {s : State} (hs : s.Running) (w : Byte) (g : Gain) :
    exec (.setGain w (gainValue g)) s = .next (s.reply (.ok (.word (putGain w g)))) := by
  rw [exec_setGain hs, checkGain_gainValue]
  rfl

/-- Settles O28: a row's gain passes the check, and its code is what `putGain` writes. -/
theorem setGainResult : Obligations.SetGainResult := by
  intro s w hs
  constructor
  · intro row hrow
    obtain ⟨g, hgain, hcode⟩ := gainRows_gain hrow
    rw [hgain, hcode]
    exact ⟨rfl, exec_setGain_gainValue hs w g⟩
  · intro gain hgain
    rw [exec_setGain hs, checkGain_of_not_mem hgain]
    rfl

/-- The rate codes of the rows, beside what `rateRows_settable` says of them (R62, R100). -/
theorem rateRows_rateCode {row : Rat × Nat × Int × Byte} (hrow : row ∈ rateRows) :
    ∃ r : Rate, row.1 = rateSps r ∧ row.2.2.2 = (rateCode r).setWidth 8 := by
  simp only [rateRows, List.mem_cons, List.not_mem_nil, or_false] at hrow
  obtain rfl | rfl | rfl := hrow
  exacts [⟨.sps240, rfl, rfl⟩, ⟨.sps60, rfl, rfl⟩, ⟨.sps15, rfl, rfl⟩]

/-- `SET_RATE` at a settable rate. -/
theorem exec_setRate_rateSps {s : State} (hs : s.Running) (w : Byte) {r : Rate} (hr : rateSettable r = true) :
    exec (.setRate w (rateSps r)) s = .next (s.reply (.ok (.wordMaxCode (putRate w r) (rateMaxCode r)))) := by
  rw [exec_setRate hs, checkRate_rateSps hr]
  rfl

/-- Settles O29: a row's rate passes the check, and its code is what `putRate` writes. -/
theorem setRateResult : Obligations.SetRateResult := by
  intro s w hs
  constructor
  · intro row hrow
    obtain ⟨r, hr, hsps, -, hmax⟩ := rateRows_settable hrow
    obtain ⟨r', hsps', hcode⟩ := rateRows_rateCode hrow
    obtain rfl : r = r' := rateSps_injective (hsps.symm.trans hsps')
    rw [hcode, hsps, hmax]
    exact ⟨rfl, exec_setRate_rateSps hs w hr⟩
  · intro rate hrate
    rw [exec_setRate hs, checkRate_of_not_mem hrate]
    rfl

/-- Settles O30: `MODE` is bit 4, so false writes nothing. -/
theorem setContResult : Obligations.SetContResult := by
  intro s w hs
  have hfalse : putCont w false = w &&& 0xEF := BitVec.or_zero
  exact ⟨rfl, rfl, exec_setCont hs w true, hfalse ▸ exec_setCont hs w false⟩

/-! ### SET_CHAN -/

/-- The checks of `SET_CHAN`: the count, then the index (R104). -/
def checkMux (count index : Int) : Except OpError MuxCode := (checkCount count).bind fun n => checkChannel n index

theorem exec_setChan_eq_checkMux {s : State} (hs : s.Running) (w : Byte) (index count : Int) :
    exec (.setChan w index count) s =
      .next (s.reply (.lift ((checkMux count index).map fun m => .word (putMux w m)))) := by
  have hexec : exec (.setChan w index count) s = compute s
      (.lift ((checkCount count).bind fun n => (checkChannel n index).map fun m => .word (putMux w m))) := rfl
  rw [hexec, compute_lift hs, checkMux]
  cases checkCount count <;> rfl

theorem checkMux_channelCountValue (n : ChannelCount) (index : Int) :
    checkMux (channelCountValue n) index = checkChannel n index := by
  rw [checkMux, checkCount, channelCountOf?_value]
  rfl

theorem count_mem_iff {count : Int} :
    count ∈ ([1, 2, 4] : List Int) ↔ ∃ n : ChannelCount, count = channelCountValue n := by
  constructor
  · intro hmem
    simp only [List.mem_cons, List.not_mem_nil, or_false] at hmem
    obtain rfl | rfl | rfl := hmem
    exacts [⟨.one, rfl⟩, ⟨.two, rfl⟩, ⟨.four, rfl⟩]
  · rintro ⟨n, rfl⟩
    cases n <;> decide

theorem checkMux_of_count_not_mem {count : Int} (h : count ∉ ([1, 2, 4] : List Int)) (index : Int) :
    checkMux count index = .error (.invalidArgument .count (.int count)) := by
  obtain ⟨n, hn, -⟩ | ⟨-, herror⟩ := checkCount_cases count
  · exact absurd (count_mem_iff.mpr ⟨n, hn⟩) h
  · rw [checkMux, herror]
    rfl

/-- What passes the checks of `SET_CHAN` is the mux code of the index. -/
theorem toNat_eq_of_checkMux_eq_ok {count index : Int} {m : MuxCode} (h : checkMux count index = .ok m) :
    (m.toNat : Int) = index := by
  obtain ⟨n, -, hn⟩ | ⟨-, herror⟩ := checkCount_cases count
  · rw [checkMux, hn] at h
    obtain ⟨m', hm', -, hok⟩ | ⟨-, herror⟩ := checkChannel_cases n index
    · cases hok.symm.trans h
      exact hm'
    · cases herror.symm.trans h
  · rw [checkMux, herror] at h
    cases h

/-- A mux code in its field is 32 times its number (R60). -/
theorem ofInt_toNat_mul_eq_shiftLeft : ∀ m : MuxCode, BitVec.ofInt 8 ((m.toNat : Int) * 32) = m.setWidth 8 <<< 5 := by
  decide

/-- Settles O31: the count and the index pass `checkMux` or are what it reports, the count first. -/
theorem setChanResult : Obligations.SetChanResult := by
  intro s w index count hs
  have he := exec_setChan_eq_checkMux hs w index count
  refine ⟨rfl, ?badCount, ?badIndex, ?valid⟩
  case badCount =>
    intro hcount
    rw [he, checkMux_of_count_not_mem hcount]
    rfl
  case badIndex =>
    intro hcount hindex
    obtain ⟨n, rfl⟩ := count_mem_iff.mp hcount
    rw [he, checkMux_channelCountValue, checkChannel_of_invalid hindex]
    rfl
  case valid =>
    intro hcount hindex
    obtain ⟨n, rfl⟩ := count_mem_iff.mp hcount
    obtain ⟨m, hm⟩ := checkChannel_of_valid hindex
    have hmux : checkMux (channelCountValue n) index = .ok m := (checkMux_channelCountValue n index).trans hm
    rw [he, hmux, ← toNat_eq_of_checkMux_eq_ok hmux, ofInt_toNat_mul_eq_shiftLeft]
    rfl

/-! ### WITH_START and the read-backs -/

theorem exec_withStart {s : State} (hs : s.Running) (w : Byte) :
    exec (.withStart w) s = .next (s.reply (.ok (.word (setStart w)))) := compute_lift hs (.ok _)

/-- Settles O32: `setStart` is the statement's word. -/
theorem withStartResult : Obligations.WithStartResult :=
  fun _ w hs => ⟨rfl, exec_withStart hs w⟩

theorem exec_getGain {s : State} (hs : s.Running) (w : Byte) :
    exec (.getGain w) s = .next (s.reply (.ok (.gain (gainValue (gainField w))))) := compute_lift hs (.ok _)

theorem exec_getRate {s : State} (hs : s.Running) (w : Byte) :
    exec (.getRate w) s = .next (s.reply (.ok (.rate (rateSps (rateField w))))) := compute_lift hs (.ok _)

theorem exec_getCont {s : State} (hs : s.Running) (w : Byte) :
    exec (.getCont w) s = .next (s.reply (.ok (.bool (contField w)))) := compute_lift hs (.ok _)

theorem exec_getChan {s : State} (hs : s.Running) (w : Byte) :
    exec (.getChan w) s = .next (s.reply (.ok (.index (muxField w).toNat))) := compute_lift hs (.ok _)

/-- The number in a field of a word. -/
theorem toNat_extractLsb'_eq_div_mod (w : Byte) (start len : Nat) :
    (w.extractLsb' start len).toNat = w.toNat / 2 ^ start % 2 ^ len := by
  rw [BitVec.extractLsb'_toNat, Nat.shiftRight_eq_div_pow]

theorem gainValue_gainOfCode : ∀ c : BitVec 2, gainValue (gainOfCode c) = 2 ^ c.toNat := by decide

theorem contOf_eq_decide : ∀ c : BitVec 1, contOf c = decide (c.toNat = 1) := by decide

/-- `RateOf` on the number of the code, code 3 among them (R62, R107). -/
theorem rateSps_rateOfCode {row : Nat × Rat}
    (hrow : row ∈ ([(0, 240), (1, 60), (2, 15), (3, 15 / 4)] : List (Nat × Rat))) {c : BitVec 2} (hc : c.toNat = row.1) :
    rateSps (rateOfCode c) = row.2 := by
  simp only [List.mem_cons, List.not_mem_nil, or_false] at hrow
  obtain rfl | rfl | rfl | rfl := hrow <;> rw [rateOfCode, hc]
  exacts [rfl, rfl, rfl, rate3p75_eq]

/-- Settles O33: each field decoder on the number its field holds. -/
theorem readBackResults : Obligations.ReadBackResults := by
  intro s w hs
  refine ⟨⟨rfl, rfl, rfl, rfl⟩, ?gain, ?rate, ?cont, ?chan⟩
  case gain =>
    have hfield : (w.extractLsb' 0 2).toNat = w.toNat % 4 := by simp
    rw [exec_getGain hs, gainField, gainValue_gainOfCode, hfield]
    rfl
  case rate =>
    intro row hrow hcode
    have hfield : (w.extractLsb' 2 2).toNat = row.1 := (toNat_extractLsb'_eq_div_mod w 2 2).trans hcode
    rw [exec_getRate hs, rateField, rateSps_rateOfCode hrow hfield]
  case cont =>
    have hfield : (w.extractLsb' 4 1).toNat = w.toNat / 16 % 2 := toNat_extractLsb'_eq_div_mod w 4 1
    rw [exec_getCont hs, contField, contOf_eq_decide, hfield]
  case chan =>
    have hfield : (w.extractLsb' 5 2).toNat = w.toNat / 32 % 4 := toNat_extractLsb'_eq_div_mod w 5 2
    rw [exec_getChan hs, muxField, hfield]

/-! ### The word an encoder returns -/

/-- An operation that returned a word found the gate open. -/
theorem running_of_resultWord {i : Instr} {s : State} {w : Byte} (h : resultWord (exec i s) = some w) :
    s.Running := by
  cases he : exec i s with
  | next t => exact (exec_effect he).1
  | fault f =>
    rw [he] at h
    cases h
  | refused r =>
    rw [he] at h
    cases h

/-- The word of a checked operation that returns, of what passes the check, a value with a word in it. -/
theorem resultWord_reply_lift_map {α : Type} {s : State} {r : Except OpError α} {value : α → Value}
    {word : α → Byte} (hword : ∀ a, resultWord (.next (s.reply (.ok (value a)))) = some (word a)) {w : Byte} :
    resultWord (.next (s.reply (.lift (r.map value)))) = some w ↔ ∃ a, r = .ok a ∧ word a = w := by
  cases r with
  | error e => exact ⟨nofun, nofun⟩
  | ok a =>
    have hsome : resultWord (.next (s.reply (.lift (Except.map value (.ok a))))) = some (word a) := hword a
    simp [hsome]

section ResultWord
variable {s : State} (hs : s.Running) {w w' : Byte}
include hs

theorem resultWord_setGain {gain : Int} :
    resultWord (exec (.setGain w gain) s) = some w' ↔ ∃ g, checkGain gain = .ok g ∧ putGain w g = w' := by
  rw [exec_setGain hs]
  exact resultWord_reply_lift_map fun _ => rfl

theorem resultWord_setRate {rate : Rat} :
    resultWord (exec (.setRate w rate) s) = some w' ↔ ∃ r, checkRate rate = .ok r ∧ putRate w r = w' := by
  rw [exec_setRate hs]
  exact resultWord_reply_lift_map fun _ => rfl

theorem resultWord_setChan {index count : Int} :
    resultWord (exec (.setChan w index count) s) = some w' ↔
      ∃ m, checkMux count index = .ok m ∧ putMux w m = w' := by
  rw [exec_setChan_eq_checkMux hs]
  exact resultWord_reply_lift_map fun _ => rfl

theorem resultWord_setCont (b : Bool) : resultWord (exec (.setCont w b) s) = some (putCont w b) := by
  rw [exec_setCont hs]
  rfl

theorem resultWord_withStart : resultWord (exec (.withStart w) s) = some (setStart w) := by
  rw [exec_withStart hs]
  rfl

end ResultWord

/-! ### Field encoders -/

/-- `enc` writes the field `mask` on the block `s`: where it returns a word at all, it returns one for every word,
with the same value in the field and the bits outside it passed through (R110). -/
def FieldEncoder (s : State) (enc : Byte → Instr) (mask : Byte) : Prop :=
  ∀ w w' : Byte, resultWord (exec (enc w) s) = some w' →
    ∃ v : Byte, v &&& ~~~mask = 0#8 ∧ ∀ u : Byte, resultWord (exec (enc u) s) = some (u &&& ~~~mask ||| v)

theorem fieldEncoder_setGain (s : State) (gain : Int) : FieldEncoder s (.setGain · gain) 0x03 := by
  intro w w' h
  have hs := running_of_resultWord h
  obtain ⟨g, hg, -⟩ := (resultWord_setGain hs).mp h
  exact ⟨_, gainCode_in_field g, fun u => (resultWord_setGain hs).mpr ⟨g, hg, rfl⟩⟩

theorem fieldEncoder_setRate (s : State) (rate : Rat) : FieldEncoder s (.setRate · rate) 0x0C := by
  intro w w' h
  have hs := running_of_resultWord h
  obtain ⟨r, hr, -⟩ := (resultWord_setRate hs).mp h
  exact ⟨_, rateCode_in_field r, fun u => (resultWord_setRate hs).mpr ⟨r, hr, rfl⟩⟩

theorem fieldEncoder_setCont (s : State) (b : Bool) : FieldEncoder s (.setCont · b) 0x10 :=
  fun _ _ h => ⟨_, contBit_in_field b, fun _ => resultWord_setCont (running_of_resultWord h) b⟩

theorem fieldEncoder_setChan (s : State) (index count : Int) : FieldEncoder s (.setChan · index count) 0x60 := by
  intro w w' h
  have hs := running_of_resultWord h
  obtain ⟨m, hm, -⟩ := (resultWord_setChan hs).mp h
  exact ⟨_, mux_in_field m, fun u => (resultWord_setChan hs).mpr ⟨m, hm, rfl⟩⟩

/-- To set bits is to write ones in their field. -/
theorem or_eq_and_not_or (w mask : Byte) : w ||| mask = w &&& ~~~mask ||| mask := by
  ext i
  cases hbit : mask[i] <;> simp [hbit]

theorem fieldEncoder_withStart (s : State) : FieldEncoder s .withStart 0x80 := by
  intro w w' h
  refine ⟨0x80, rfl, fun u => ?_⟩
  rw [resultWord_withStart (running_of_resultWord h), setStart, or_eq_and_not_or]

/-- The two halves of field isolation (R110). -/
theorem FieldEncoder.isolated {s : State} {enc : Byte → Instr} {mask : Byte} (h : FieldEncoder s enc mask)
    (w u w' : Byte) (hw : resultWord (exec (enc w) s) = some w') :
    w' &&& ~~~mask = w &&& ~~~mask ∧
      ∃ u' : Byte, resultWord (exec (enc u) s) = some u' ∧ u' &&& mask = w' &&& mask := by
  obtain ⟨v, hv, hwrites⟩ := h w w' hw
  obtain rfl : w &&& ~~~mask ||| v = w' := Option.some.inj ((hwrites w).symm.trans hw)
  have inside (x : Byte) : (x &&& ~~~mask ||| v) &&& mask = v &&& mask := by
    simp [BitVec.and_or_distrib_right, BitVec.and_assoc, BitVec.not_and_self]
  refine ⟨?_, _, hwrites u, (inside u).trans (inside w).symm⟩
  rw [BitVec.and_or_distrib_right, hv, BitVec.or_zero, BitVec.and_assoc, BitVec.and_self]

/-- Settles O34: all five operations are field encoders. -/
theorem encodersAreFieldIsolated : Obligations.EncodersAreFieldIsolated := by
  intro s w v gain index count rate b p hp
  simp only [List.mem_cons, List.not_mem_nil, or_false] at hp
  obtain rfl | rfl | rfl | rfl | rfl := hp
  exacts [(fieldEncoder_setGain s gain).isolated w v, (fieldEncoder_setRate s rate).isolated w v,
    (fieldEncoder_setCont s b).isolated w v, (fieldEncoder_setChan s index count).isolated w v,
    (fieldEncoder_withStart s).isolated w v]

/-- Encoders of two fields with no bit in common commute where they return words (R111). -/
theorem FieldEncoder.commute {s : State} {enc1 enc2 : Byte → Instr} {mask1 mask2 : Byte}
    (h1 : FieldEncoder s enc1 mask1) (h2 : FieldEncoder s enc2 mask2)
    (disjoint : ~~~mask1 ||| ~~~mask2 = BitVec.allOnes 8) (w x y z : Byte)
    (hx : resultWord (exec (enc1 w) s) = some x) (hy : resultWord (exec (enc2 x) s) = some y)
    (hz : resultWord (exec (enc2 w) s) = some z) : resultWord (exec (enc1 z) s) = some y := by
  obtain ⟨v1, hv1, hwrites1⟩ := h1 w x hx
  obtain ⟨v2, hv2, hwrites2⟩ := h2 w z hz
  obtain rfl := Option.some.inj ((hwrites1 w).symm.trans hx)
  obtain rfl := Option.some.inj ((hwrites2 w).symm.trans hz)
  obtain rfl := Option.some.inj ((hwrites2 _).symm.trans hy)
  rw [hwrites1]
  exact congrArg some (maskedWrite_commute disjoint hv1 hv2 w)

/-- Settles O36: the four masks have no bit in common. -/
theorem encodersCommute : Obligations.EncodersCommute := by
  intro s w gain index count rate b p hp
  have hgain := fieldEncoder_setGain s gain
  have hrate := fieldEncoder_setRate s rate
  have hcont := fieldEncoder_setCont s b
  have hchan := fieldEncoder_setChan s index count
  simp only [List.mem_cons, List.not_mem_nil, or_false] at hp
  obtain rfl | rfl | rfl | rfl | rfl | rfl := hp
  exacts [hgain.commute hrate rfl w, hgain.commute hcont rfl w, hgain.commute hchan rfl w,
    hrate.commute hcont rfl w, hrate.commute hchan rfl w, hcont.commute hchan rfl w]

/-! ### What a field holds after a write -/

/-- A write keeps a field where its mask `keep` is all ones. -/
theorem extractLsb'_maskedWrite_of_kept {v keep : Byte} (inField : v &&& keep = 0#8) (w : Byte) (start len : Nat)
    (kept : keep.extractLsb' start len = BitVec.allOnes len) :
    (w &&& keep ||| v).extractLsb' start len = w.extractLsb' start len := by
  have hv : v.extractLsb' start len = 0#len :=
    calc v.extractLsb' start len
      _ = (v &&& keep).extractLsb' start len := by rw [BitVec.extractLsb'_and, kept, BitVec.and_allOnes]
      _ = 0#len := by rw [inField]; simp
  rw [BitVec.extractLsb'_or, BitVec.extractLsb'_and, kept, hv, BitVec.and_allOnes, BitVec.or_zero]

/-- A field holds what was written where the mask `keep` is all zeros. -/
theorem extractLsb'_maskedWrite_of_written (v : Byte) {keep : Byte} (w : Byte) {start len : Nat}
    (written : keep.extractLsb' start len = 0#len) :
    (w &&& keep ||| v).extractLsb' start len = v.extractLsb' start len := by
  rw [BitVec.extractLsb'_or, BitVec.extractLsb'_and, written, BitVec.and_zero, BitVec.zero_or]

/-- Writing a field's own value back returns the word. -/
theorem maskedWrite_extractLsb' {keep : Byte} (w : Byte) {start len : Nat}
    (cover : keep ||| (BitVec.allOnes len).setWidth 8 <<< start = BitVec.allOnes 8) :
    w &&& keep ||| (w.extractLsb' start len).setWidth 8 <<< start = w := by
  have hfield : (w.extractLsb' start len).setWidth 8 <<< start = w &&& (BitVec.allOnes len).setWidth 8 <<< start := by
    ext i hi
    by_cases hstart : i < start
    · simp [hstart]
    · have hbit : start + (i - start) = i := by omega
      simp [hstart, hbit, hi, Bool.and_comm]
  rw [hfield, ← BitVec.and_or_distrib_left, cover, BitVec.and_allOnes]

theorem putGain_fields (w : Byte) (g : Gain) :
    gainField (putGain w g) = g ∧ contField (putGain w g) = contField w ∧ rateField (putGain w g) = rateField w ∧
      muxField (putGain w g) = muxField w := by
  have kept := extractLsb'_maskedWrite_of_kept (gainCode_in_field g) w
  refine ⟨?_, congrArg contOf (kept 4 1 rfl), congrArg rateOfCode (kept 2 2 rfl), kept 5 2 rfl⟩
  have hcode : (putGain w g).extractLsb' 0 2 = ((gainCode g).setWidth 8).extractLsb' 0 2 :=
    extractLsb'_maskedWrite_of_written _ w rfl
  rw [gainField, hcode]
  cases g <;> rfl

theorem putRate_fields (w : Byte) (r : Rate) :
    rateField (putRate w r) = r ∧ gainField (putRate w r) = gainField w ∧ contField (putRate w r) = contField w ∧
      muxField (putRate w r) = muxField w := by
  have kept := extractLsb'_maskedWrite_of_kept (rateCode_in_field r) w
  refine ⟨?_, congrArg gainOfCode (kept 0 2 rfl), congrArg contOf (kept 4 1 rfl), kept 5 2 rfl⟩
  have hcode : (putRate w r).extractLsb' 2 2 = ((rateCode r).setWidth 8 <<< 2).extractLsb' 2 2 :=
    extractLsb'_maskedWrite_of_written _ w rfl
  rw [rateField, hcode]
  cases r <;> rfl

theorem putCont_fields (w : Byte) (b : Bool) :
    contField (putCont w b) = b ∧ gainField (putCont w b) = gainField w ∧ rateField (putCont w b) = rateField w ∧
      muxField (putCont w b) = muxField w := by
  have kept := extractLsb'_maskedWrite_of_kept (contBit_in_field b) w
  refine ⟨?_, congrArg gainOfCode (kept 0 2 rfl), congrArg rateOfCode (kept 2 2 rfl), kept 5 2 rfl⟩
  have hcode : (putCont w b).extractLsb' 4 1 = ((contBit b).setWidth 8 <<< 4).extractLsb' 4 1 :=
    extractLsb'_maskedWrite_of_written _ w rfl
  rw [contField, hcode]
  cases b <;> rfl

theorem extractLsb'_mux_in_field : ∀ m : MuxCode, ((m.setWidth 8 : Byte) <<< 5).extractLsb' 5 2 = m := by decide

theorem putMux_fields (w : Byte) (m : MuxCode) :
    muxField (putMux w m) = m ∧ gainField (putMux w m) = gainField w ∧ rateField (putMux w m) = rateField w ∧
      contField (putMux w m) = contField w := by
  have kept := extractLsb'_maskedWrite_of_kept (mux_in_field m) w
  have hcode : muxField (putMux w m) = m :=
    (extractLsb'_maskedWrite_of_written _ w rfl).trans (extractLsb'_mux_in_field m)
  exact ⟨hcode, congrArg gainOfCode (kept 0 2 rfl), congrArg rateOfCode (kept 2 2 rfl),
    congrArg contOf (kept 4 1 rfl)⟩

/-! ### Round trips -/

theorem gainCode_gainOfCode : ∀ c : BitVec 2, gainCode (gainOfCode c) = c := by decide

theorem rateCode_rateOfCode : ∀ c : BitVec 2, rateCode (rateOfCode c) = c := by decide

theorem contBit_contOf : ∀ c : BitVec 1, contBit (contOf c) = c := by decide

theorem rateSettable_rateOfCode : ∀ c : BitVec 2, c ≠ 0b11 → rateSettable (rateOfCode c) = true := by decide

theorem putGain_gainField (w : Byte) : putGain w (gainField w) = w := by
  rw [putGain, gainField, gainCode_gainOfCode]
  simpa only [BitVec.shiftLeft_zero] using maskedWrite_extractLsb' (keep := 0xFC) (start := 0) (len := 2) w rfl

theorem putRate_rateField (w : Byte) : putRate w (rateField w) = w := by
  rw [putRate, rateField, rateCode_rateOfCode]
  exact maskedWrite_extractLsb' w rfl

theorem putCont_contField (w : Byte) : putCont w (contField w) = w := by
  rw [putCont, contField, contBit_contOf]
  exact maskedWrite_extractLsb' w rfl

theorem putMux_muxField (w : Byte) : putMux w (muxField w) = w := maskedWrite_extractLsb' w rfl

theorem gainValue_eq_of_checkGain_eq_ok {gain : Int} {g : Gain} (h : checkGain gain = .ok g) : gainValue g = gain := by
  obtain ⟨g', rfl, hok⟩ | ⟨-, herror⟩ := checkGain_cases gain
  · cases hok.symm.trans h
    rfl
  · cases herror.symm.trans h

theorem rateSps_eq_of_checkRate_eq_ok {rate : Rat} {r : Rate} (h : checkRate rate = .ok r) : rateSps r = rate := by
  obtain ⟨r', rfl, -, hok⟩ | ⟨-, herror⟩ := checkRate_cases rate
  · cases hok.symm.trans h
    rfl
  · cases herror.symm.trans h

/-- Settles O35: a written word holds the operand in its field and what it held in the others, and to write a
field's own value back changes nothing. -/
theorem encodersRoundTrip : Obligations.EncodersRoundTrip := by
  intro s w w' gain index count rate b hs
  refine ⟨?gain, ?rate, ?cont, ?chan, ?gainBack, ?contBack, ?chanBack, ?rateBack⟩
  case gain =>
    intro h
    obtain ⟨g, hg, rfl⟩ := (resultWord_setGain hs).mp h
    obtain ⟨hread, hothers⟩ := putGain_fields w g
    rw [exec_getGain hs, hread, gainValue_eq_of_checkGain_eq_ok hg]
    exact ⟨rfl, hothers⟩
  case rate =>
    intro h
    obtain ⟨r, hr, rfl⟩ := (resultWord_setRate hs).mp h
    obtain ⟨hread, hothers⟩ := putRate_fields w r
    rw [exec_getRate hs, hread, rateSps_eq_of_checkRate_eq_ok hr]
    exact ⟨rfl, hothers⟩
  case cont =>
    intro h
    obtain rfl := Option.some.inj ((resultWord_setCont hs b).symm.trans h)
    obtain ⟨hread, hothers⟩ := putCont_fields w b
    rw [exec_getCont hs, hread]
    exact ⟨rfl, hothers⟩
  case chan =>
    intro h
    obtain ⟨m, hm, rfl⟩ := (resultWord_setChan hs).mp h
    obtain ⟨hread, hothers⟩ := putMux_fields w m
    rw [exec_getChan hs, hread, toNat_eq_of_checkMux_eq_ok hm]
    exact ⟨rfl, hothers⟩
  case gainBack =>
    exact (resultWord_setGain hs).mpr ⟨gainField w, checkGain_gainValue _, putGain_gainField w⟩
  case contBack => rw [resultWord_setCont hs, putCont_contField]
  case chanBack =>
    have hcheck : checkMux 4 (muxField w).toNat = .ok (muxField w) :=
      (checkMux_channelCountValue .four _).trans (checkChannel_toNat (muxField w).isLt)
    exact (resultWord_setChan hs).mpr ⟨muxField w, hcheck, putMux_muxField w⟩
  case rateBack =>
    intro hcode
    have hcheck := checkRate_rateSps (rateSettable_rateOfCode _ hcode)
    exact (resultWord_setRate hs).mpr ⟨rateField w, hcheck, putRate_rateField w⟩

end Sys2Proof.Machine
end

section
/-! PROOFS of the result decoder statements (42_result_decoder.md R130 to R135): what `DECODE` answers, said once; and
the code of a ready frame as the two's-complement value of its data field, from which range and bijection follow. -/

namespace Sys2Proof.Machine

/-! ### DECODE -/

/-- `DECODE` at a settable rate ends as its frame decodes (R130). -/
theorem exec_decode_rateSps {s : State} (hs : s.Running) (b0 b1 b2 : Byte) {r : Rate} (hr : rateSettable r = true) :
    exec (.decode b0 b1 b2 (rateSps r)) s = .next (s.reply ((decodeFrame ⟨b0, b1, b2⟩ r).map .code)) := by
  rw [exec, execDecode, checkWidth_rateSps hr, compute_of_running hs, OpOutcome.bind_ok]
  obtain ⟨-, hd⟩ | ⟨-, hd⟩ := decodeFrame_cases ⟨b0, b1, b2⟩ r <;> rw [hd] <;> rfl

/-- `DECODE` of a ready frame (R130). -/
theorem exec_decode_of_ready {s : State} (hs : s.Running) (b0 b1 : Byte) {b2 : Byte} (hready : b2.getLsbD 7 = false)
    {r : Rate} (hr : rateSettable r = true) :
    exec (.decode b0 b1 b2 (rateSps r)) s =
      .next (s.reply (.ok (.code (frameCode b0 b1 (rateRes r) (rateMaxCode r))))) := by
  rw [exec_decode_rateSps hs b0 b1 b2 hr, decodeFrame_of_ready (f := ⟨b0, b1, b2⟩) hready]
  rfl

/-- `DECODE` of a frame that is not ready (R130). -/
theorem exec_decode_of_not_ready {s : State} (hs : s.Running) (b0 b1 : Byte) {b2 : Byte}
    (hready : b2.getLsbD 7 = true) {r : Rate} (hr : rateSettable r = true) :
    exec (.decode b0 b1 b2 (rateSps r)) s = .next (s.reply (.raise .conversionNotReady)) := by
  rw [exec_decode_rateSps hs b0 b1 b2 hr, decodeFrame_of_not_ready (f := ⟨b0, b1, b2⟩) hready]
  rfl

/-- 3.75 is no decode width (R217). -/
theorem checkWidth_rate3p75 : checkWidth rate3p75 = .refuse .unsupported18Bit := if_pos rfl

/-- A rate that is in no row of the table is no decode width (R130). -/
theorem checkWidth_of_not_mem {rate : Rat} (h : rate ∉ ([15 / 4, 15, 60, 240] : List Rat)) :
    checkWidth rate = .raise (.invalidArgument .rate (.rat rate)) := by
  rw [checkWidth, rate3p75_eq, if_neg (List.ne_of_not_mem_cons h),
    checkRate_of_not_mem (List.not_mem_of_not_mem_cons h)]
  rfl

/-- Settles O37: the check of the width, then the frame by its ready bit. -/
theorem decodeResult : Obligations.DecodeResult := by
  intro s b0 b1 b2 hs
  refine ⟨fun _ => rfl, ?refused, ?invalid, ?rows⟩
  case refused =>
    rw [← rate3p75_eq, exec, execDecode, checkWidth_rate3p75, compute_of_running hs]
    exact congrArg _ (finish_refuse _ hs.2)
  case invalid =>
    intro rate hrate
    rw [exec, execDecode, checkWidth_of_not_mem hrate, compute_of_running hs]
    rfl
  case rows =>
    intro row hrow
    obtain ⟨r, hr, hsps, hres, hmax⟩ := rateRows_settable hrow
    rw [hsps, hres, hmax]
    exact ⟨fun hready => exec_decode_of_not_ready hs b0 b1 hready hr,
      fun hready => exec_decode_of_ready hs b0 b1 hready hr⟩

/-! ### What the decoder reads -/

/-- Frames that agree in the ready bit and in the low N bits of the data word decode to one outcome (R135). -/
theorem decodeFrame_congr {f g : Frame} {r : Rate} (hready : f.b2.getLsbD 7 = g.b2.getLsbD 7)
    (hfield : (f.b0.toNat * 256 + f.b1.toNat) % 2 ^ rateRes r = (g.b0.toNat * 256 + g.b1.toNat) % 2 ^ rateRes r) :
    decodeFrame f r = decodeFrame g r := by
  cases hg : g.b2.getLsbD 7 with
  | true => rw [decodeFrame_of_not_ready (hready.trans hg), decodeFrame_of_not_ready hg]
  | false =>
    rw [decodeFrame_of_ready (hready.trans hg), decodeFrame_of_ready hg]
    simp only [frameCode, hfield]

/-- Settles O41: the outcome is what `decodeFrame` gives, which is the same for both frames. -/
theorem decodeReadsOnlyReadyBitAndField : Obligations.DecodeReadsOnlyReadyBitAndField := by
  intro s s' a0 a1 a2 b0 b1 b2 hs hs' row hrow hready hfield
  obtain ⟨r, hr, hsps, hres, -⟩ := rateRows_settable hrow
  rw [hres] at hfield
  have hsame : decodeFrame ⟨a0, a1, a2⟩ r = decodeFrame ⟨b0, b1, b2⟩ r := decodeFrame_congr hready hfield
  rw [hsps]
  exact ⟨_, exec_decode_rateSps hs a0 a1 a2 hr, hsame ▸ exec_decode_rateSps hs' b0 b1 b2 hr⟩

/-! ### The code as the two's-complement value of the data field -/

/-- `MaxCode` is the greatest two's-complement integer of N bits (R100). -/
theorem rateMaxCode_add_one (r : Rate) : rateMaxCode r + 1 = 2 ^ (rateRes r - 1) := by cases r <;> rfl

theorem rateRes_pos (r : Rate) : 0 < rateRes r := by cases r <;> decide

/-- What is subtracted above `MaxCode` is `2^N` (R131). -/
theorem two_mul_rateMaxCode_add_one (r : Rate) : 2 * (rateMaxCode r + 1) = 2 ^ rateRes r := by cases r <;> rfl

/-- The data word holds the field of every settable rate. -/
theorem rateRes_le_of_settable {r : Rate} (hr : rateSettable r = true) : rateRes r ≤ 16 := by
  cases r with
  | sps3p75 => cases hr
  | _ => decide

/-- The low `n` bits of the data word, `U` as a number (R68). -/
theorem toNat_setWidth_append (b0 b1 : Byte) (n : Nat) :
    ((b0 ++ b1).setWidth n).toNat = (b0.toNat * 256 + b1.toNat) % 2 ^ n := by
  rw [BitVec.toNat_setWidth, toNat_append_eq_add]
  rfl

/-- The reconstruction is sign extension where what it subtracts is `2^n` (R131). -/
theorem frameCode_eq_toInt (b0 b1 : Byte) {n : Nat} {maxCode : Int} (hmax : 2 * (maxCode + 1) = 2 ^ n) :
    frameCode b0 b1 n maxCode = ((b0 ++ b1).setWidth n).toInt := by
  have habove (u : Nat) : (u : Int) > maxCode ↔ ¬2 * u < 2 ^ n := by
    zify
    omega
  simp only [frameCode, BitVec.toInt_eq_toNat_cond, toNat_setWidth_append, habove, hmax, ite_not]
  norm_cast

/-- `DECODE` of a ready frame returns the data field sign-extended (R131). -/
theorem exec_decode_eq_toInt {s : State} (hs : s.Running) (b0 b1 : Byte) {b2 : Byte} (hready : b2.getLsbD 7 = false)
    {r : Rate} (hr : rateSettable r = true) :
    exec (.decode b0 b1 b2 (rateSps r)) s =
      .next (s.reply (.ok (.code ((b0 ++ b1).setWidth (rateRes r)).toInt))) := by
  rw [exec_decode_of_ready hs b0 b1 hready hr, frameCode_eq_toInt b0 b1 (two_mul_rateMaxCode_add_one r)]

/-- Settles O38: `exec_decode_eq_toInt` at the three settable rates; 16 bits are the whole word. -/
theorem decodeIsSignExtension : Obligations.DecodeIsSignExtension := by
  intro s b0 b1 b2 hs hready
  have h15 := exec_decode_eq_toInt hs b0 b1 hready (r := .sps15) rfl
  rw [rateRes, BitVec.setWidth_eq] at h15
  exact ⟨exec_decode_eq_toInt hs b0 b1 hready (r := .sps240) rfl,
    exec_decode_eq_toInt hs b0 b1 hready (r := .sps60) rfl, h15⟩

/-! ### Range and bijection -/

/-- A field of N bits has a code in `-(mc+1) .. mc` (R132). -/
theorem toInt_mem_codeRange {r : Rate} (x : BitVec (rateRes r)) :
    -(rateMaxCode r + 1) ≤ x.toInt ∧ x.toInt ≤ rateMaxCode r := by
  have hlow := x.le_two_mul_toInt
  have hhigh := x.two_mul_toInt_lt
  rw [← two_mul_rateMaxCode_add_one] at hlow hhigh
  constructor <;> omega

/-- A code in `-(mc+1) .. mc` is the one of the field that holds it (R132). -/
theorem toInt_ofInt_of_codeRange {r : Rate} {c : Int} (hlow : -(rateMaxCode r + 1) ≤ c) (hhigh : c ≤ rateMaxCode r) :
    (BitVec.ofInt (rateRes r) c).toInt = c := by
  apply BitVec.toInt_ofInt_eq_self (rateRes_pos r) <;> rw [← rateMaxCode_add_one] <;> omega

/-- A code that `DECODE` returned is the data field sign-extended. -/
theorem eq_toInt_of_exec_decode {s t : State} (hs : s.Running) {b0 b1 b2 : Byte} {r : Rate}
    (hr : rateSettable r = true) {c : Int} (he : exec (.decode b0 b1 b2 (rateSps r)) s = .next t)
    (houtcome : t.outcomes = .ok (.code c) :: s.outcomes) : c = ((b0 ++ b1).setWidth (rateRes r)).toInt := by
  cases hready : b2.getLsbD 7 with
  | true =>
    cases (exec_decode_of_not_ready hs b0 b1 hready hr).symm.trans he
    cases houtcome
  | false =>
    cases (exec_decode_eq_toInt hs b0 b1 hready hr).symm.trans he
    cases houtcome
    rfl

/-- Every number of 16 bits is the data word of two bytes (R67). -/
theorem exists_bytes_of_lt {u : Nat} (hu : u < 2 ^ 16) : ∃ b0 b1 : Byte, b0.toNat * 256 + b1.toNat = u := by
  refine ⟨BitVec.ofNat 8 (u / 256), BitVec.ofNat 8 u, ?_⟩
  simp only [BitVec.toNat_ofNat]
  omega

/-- Two bytes are fixed by their data word. -/
theorem bytes_eq_of_word_eq {a0 a1 b0 b1 : Byte}
    (h : a0.toNat * 256 + a1.toNat = b0.toNat * 256 + b1.toNat) : a0 = b0 ∧ a1 = b1 := by
  constructor <;> bv_omega

/-- A data word without bits above its field is fixed by its code (R132). -/
theorem bytes_eq_of_toInt_eq {n : Nat} {a0 a1 b0 b1 : Byte} (ha : a0.toNat * 256 + a1.toNat < 2 ^ n)
    (hb : b0.toNat * 256 + b1.toNat < 2 ^ n)
    (h : ((a0 ++ a1).setWidth n).toInt = ((b0 ++ b1).setWidth n).toInt) : a0 = b0 ∧ a1 = b1 := by
  have hfield := congrArg BitVec.toNat (BitVec.eq_of_toInt_eq h)
  rw [toNat_setWidth_append, toNat_setWidth_append, Nat.mod_eq_of_lt ha, Nat.mod_eq_of_lt hb] at hfield
  exact bytes_eq_of_word_eq hfield

/-- Settles O39: the codes are the two's-complement integers of the N-bit fields; a code of the range is that of the
bytes that spell its field. -/
theorem decodeIsBijection : Obligations.DecodeIsBijection := by
  intro s hs row hrow
  obtain ⟨r, hr, hsps, hres, hmax⟩ := rateRows_settable hrow
  rw [hsps, hres, hmax]
  refine ⟨?range, ?branches, ?preimage⟩
  case range =>
    intro b0 b1 b2 t c he houtcome
    rw [eq_toInt_of_exec_decode hs hr he houtcome]
    exact toInt_mem_codeRange _
  case branches =>
    rintro b0 b1 _ rfl hlt
    have hmod : (b0.toNat * 256 + b1.toNat) % 2 ^ rateRes r = b0.toNat * 256 + b1.toNat :=
      Nat.mod_eq_of_lt (by exact_mod_cast hlt)
    rw [exec_decode_of_ready hs b0 b1 rfl hr, frameCode, hmod, ← two_mul_rateMaxCode_add_one]
    push_cast
    exact ⟨fun hle => by rw [if_neg (not_lt.mpr hle)], fun hgt => by rw [if_pos hgt]⟩
  case preimage =>
    intro c hlow hhigh
    have hlt := (BitVec.ofInt (rateRes r) c).isLt
    obtain ⟨b0, b1, hword⟩ :=
      exists_bytes_of_lt (hlt.trans_le (Nat.pow_le_pow_right two_pos (rateRes_le_of_settable hr)))
    have hfield : (b0 ++ b1).setWidth (rateRes r) = BitVec.ofInt (rateRes r) c := by
      apply BitVec.eq_of_toNat_eq
      rw [toNat_setWidth_append, hword, Nat.mod_eq_of_lt hlt]
    have hcode : ((b0 ++ b1).setWidth (rateRes r)).toInt = c :=
      (congrArg BitVec.toInt hfield).trans (toInt_ofInt_of_codeRange hlow hhigh)
    refine ⟨b0, b1, hword ▸ hlt, hcode ▸ exec_decode_eq_toInt hs b0 b1 rfl hr, fun a0 a1 ha he => ?_⟩
    exact bytes_eq_of_toInt_eq ha (hword ▸ hlt) ((eq_toInt_of_exec_decode hs hr he rfl).symm.trans hcode.symm)

end Sys2Proof.Machine
end

section
/-! PROOFS of the device statements (43_device.md R150 to R153): what each device operation answers, said once. Then
what an outcome says of the state: errors are precise (R219), and a successful `START` decides which contexts are
active until the next write that succeeds (R177). -/

namespace Sys2Proof.Machine

/-! ### INITIATE -/

/-- A write answered `Ok` caches the word (R150). -/
theorem initiateDevice_of_ok {s : State} (hanswer : s.nextWriteAnswer = .ok) (w : Byte) :
    initiateDevice w s = (.ok (), (s.wrote (setStart w)).setLastConfig (clearStart w)) := by
  rw [initiateDevice, busWrite_eq, hanswer]

/-- A failed write keeps the cache (R150). -/
theorem initiateDevice_of_transportError {s : State} (hanswer : s.nextWriteAnswer = .transportError) (w : Byte) :
    initiateDevice w s = (.raise (.busError .write), s.wrote (setStart w)) := by
  rw [initiateDevice, busWrite_eq, hanswer]

/-- Settles O42: the write's answer decides, and the state with the word cached is the same whether the cache or the
transaction is written first. -/
theorem initiateResult : Obligations.InitiateResult := by
  intro s w hs
  refine ⟨rfl, ?written, ?failed⟩
  case written =>
    intro hanswer
    rw [exec, execInitiate, operate_of_running hs, initiateDevice_of_ok hanswer]
    rfl
  case failed =>
    intro hanswer
    rw [exec, execInitiate, operate_of_running hs, initiateDevice_of_transportError hanswer]
    rfl

/-! ### GET_CONV -/

/-- A read answer that is not three bytes is no frame (R44). -/
theorem readFrame?_eq_none {a : ReadAnswer} (h : ∀ b0 b1 b2 : Byte, a ≠ .bytes [b0, b1, b2]) :
    readFrame? a = none :=
  Option.eq_none_iff_forall_ne_some.mpr fun _ hf => h _ _ _ (readFrame?_eq_some hf)

section GetConversion
variable {s : State} {r : Rate} {cmd : Byte} (hr : rateSettable r = true)
include hr

/-- The unwritten cache is found before the bus is used (R151, R215). -/
theorem getConversion_of_unwritten (hcached : s.dev.lastConfig = .unwritten) :
    getConversion (rateSps r) s = (.fault .unwrittenLastConfig, s) := by
  rw [getConversion, checkWidth_rateSps hr, OpOutcome.andThen_ok, hcached]

/-- A read without a frame is a `BusError` (R151). -/
theorem getConversion_of_readFrame?_eq_none (hcached : s.dev.lastConfig = .byte cmd)
    (hframe : readFrame? s.nextReadAnswer = none) :
    getConversion (rateSps r) s = (.raise (.busError .read), s.didRead cmd) := by
  simp only [getConversion, checkWidth_rateSps hr, OpOutcome.andThen_ok, hcached, busRead_eq, hframe]

/-- A read with a frame ends as the frame decodes at the width of the operand (R151). -/
theorem getConversion_of_readFrame?_eq_some {f : Frame} (hcached : s.dev.lastConfig = .byte cmd)
    (hframe : readFrame? s.nextReadAnswer = some f) :
    getConversion (rateSps r) s = (decodeFrame f r, s.didRead cmd) := by
  simp only [getConversion, checkWidth_rateSps hr, OpOutcome.andThen_ok, hcached, busRead_eq, hframe]

end GetConversion

/-- `GET_CONV` returns what the conversion ends in (R151). -/
theorem exec_getConv {s u : State} (hs : s.Running) {rate : Rat} {o : OpOutcome Int}
    (h : getConversion rate s = (o, u)) : exec (.getConv rate) s = .next (finish (o.map .code, u)) := by
  rw [exec, execGetConv, operate_of_running hs, h]

/-- Settles O43: the check of the width, then the cache, then the frame of the read by its ready bit. -/
theorem getConvResult : Obligations.GetConvResult := by
  intro s hs
  refine ⟨fun _ => rfl, ?refused, ?invalid, ?rows⟩
  case refused =>
    have hconv : getConversion (15 / 4) s = (.refuse .unsupported18Bit, s) := by
      rw [← rate3p75_eq, getConversion, checkWidth_rate3p75, OpOutcome.andThen_refuse]
    rw [exec_getConv hs hconv]
    exact congrArg _ (finish_refuse _ hs.2)
  case invalid =>
    intro rate hrate
    have hconv : getConversion rate s = (.raise (.invalidArgument .rate (.rat rate)), s) := by
      rw [getConversion, checkWidth_of_not_mem hrate, OpOutcome.andThen_raise]
    exact exec_getConv hs hconv
  case rows =>
    intro row hrow
    obtain ⟨r, hr, hsps, hres, hmax⟩ := rateRows_settable hrow
    rw [hsps, hres, hmax]
    refine ⟨?unwritten, fun cmd hcached => ⟨?noFrame, fun b0 b1 b2 hanswer => ?frame⟩⟩
    case unwritten =>
      intro hcached
      rw [exec_getConv hs (getConversion_of_unwritten hr hcached)]
      exact congrArg _ (finish_fault _ hs.1)
    case noFrame =>
      intro hanswer
      exact exec_getConv hs (getConversion_of_readFrame?_eq_none hr hcached (readFrame?_eq_none hanswer))
    case frame =>
      have hframe : readFrame? s.nextReadAnswer = some ⟨b0, b1, b2⟩ := by rw [hanswer]; rfl
      have he := exec_getConv hs (getConversion_of_readFrame?_eq_some hr hcached hframe)
      refine ⟨fun hready => ?_, fun hready => ?_⟩
      · rw [he, decodeFrame_of_not_ready (f := ⟨b0, b1, b2⟩) hready]
        rfl
      · rw [he, decodeFrame_of_ready (f := ⟨b0, b1, b2⟩) hready]
        rfl

/-! ### ACTIVE_CHAN and VALIDATE_CHAN -/

theorem activeChannel_of_unwritten {s : State} (hcached : s.dev.lastConfig = .unwritten) :
    activeChannel s = .fault .unwrittenLastConfig := by
  rw [activeChannel, hcached]

theorem activeChannel_of_byte {s : State} {w : Byte} (hcached : s.dev.lastConfig = .byte w) :
    activeChannel s = .ok (muxField w) := by
  rw [activeChannel, hcached]

/-- `ACTIVE_CHAN` on a written cache (R152). -/
theorem exec_activeChan_of_byte {s : State} {w : Byte} (hs : s.Running) (hcached : s.dev.lastConfig = .byte w) :
    exec .activeChan s = .next (s.reply (.ok (.index (muxField w).toNat))) := by
  rw [exec, execActiveChan, operate_of_running hs, activeChannel_of_byte hcached]
  rfl

/-- Settles O44: the mux field is bits 6:5. -/
theorem activeChanResult : Obligations.ActiveChanResult := by
  intro s hs
  refine ⟨rfl, ?unwritten, ?written⟩
  case unwritten =>
    intro hcached
    rw [exec, execActiveChan, operate_of_running hs, activeChannel_of_unwritten hcached]
    exact congrArg _ (finish_fault _ hs.1)
  case written =>
    intro w hcached
    have hfield : (w.extractLsb' 5 2).toNat = w.toNat / 32 % 4 := toNat_extractLsb'_eq_div_mod w 5 2
    rw [exec_activeChan_of_byte hs hcached, muxField, hfield]

/-- `VALIDATE_CHAN` is the check of the index against the Device's channel count (R153). -/
theorem exec_validateChan {s : State} (hs : s.Running) (index : Int) :
    exec (.validateChan index) s =
      .next (s.reply (.lift ((checkChannel s.dev.channelCount index).map fun _ => .unit))) :=
  compute_lift hs _

/-- Settles O45: the index passes the check or is what the check reports. -/
theorem validateChanResult : Obligations.ValidateChanResult := by
  intro s index hs
  refine ⟨rfl, ?valid, ?invalid⟩
  case valid =>
    intro hindex
    obtain ⟨m, hm⟩ := checkChannel_of_valid hindex
    rw [exec_validateChan hs, hm]
    rfl
  case invalid =>
    intro hindex
    rw [exec_validateChan hs, checkChannel_of_invalid hindex]
    rfl

/-! ### What an outcome says of the state -/

/-- The outcome a next state returned is the outcome of the effect it is the end of. -/
theorem exec_effect_of_outcome {s t : State} {i : Instr} {o : OpOutcome Value} (he : exec i s = .next t)
    (ho : t.outcomes = o :: s.outcomes) : ∃ u, Effect s i o u ∧ t = finish (o, u) := by
  obtain ⟨-, o', u, heff, rfl⟩ := exec_effect he
  obtain ⟨-, -, -, houtcomes⟩ := heff.bookkeeping
  obtain ⟨-, -, -, -, -, -, hfinish⟩ := finish_frame (o', u)
  obtain ⟨rfl, -⟩ := List.cons.inj (hfinish.symm.trans ho)
  exact ⟨u, heff, rfl⟩

/-- An effect that raises an error has written neither the Device nor a context: all it can have done is a bus
transaction. -/
theorem Effect.dev_ch_of_raise {s u : State} {i : Instr} {e : OpError} (h : Effect s i (.raise e) u) :
    u.dev = s.dev ∧ u.ch = s.ch := by
  cases h with
  | none | initiateFailed | startFailed | readFailed | readNotReady => exact ⟨rfl, rfl⟩

/-- Settles O20: an effect that raises wrote neither the Device nor a context, and returning an error records nothing
(R219). -/
theorem errorsLeaveStateUnchanged : Obligations.ErrorsLeaveStateUnchanged := by
  intro s t i e he ho
  obtain ⟨u, heff, rfl⟩ := exec_effect_of_outcome he ho
  obtain ⟨hdev, hch⟩ := heff.dev_ch_of_raise
  obtain ⟨hfault, hrefused, hcommands, -⟩ := heff.bookkeeping
  exact ⟨hdev, hch, hfault, hrefused, hcommands⟩

/-! ### Who is active -/

/-- The mux field of a composed word is the mux code it was composed of (R60, R66). -/
theorem muxField_compose (m : MuxCode) (b : Bool) (r : Rate) (g : Gain) : muxField (compose m b r g) = m := by
  obtain ⟨hmux, -⟩ := putMux_fields 0 m
  obtain ⟨-, -, -, hcont⟩ := putCont_fields (putMux 0 m) b
  obtain ⟨-, -, -, hrate⟩ := putRate_fields (putCont (putMux 0 m) b) r
  obtain ⟨-, -, -, hgain⟩ := putGain_fields (putRate (putCont (putMux 0 m) b) r) g
  rw [← fieldEncoders_of_zero, hgain, hrate, hcont, hmux]

/-- A state that is a reply has the reply as its newest outcome. -/
theorem outcomes_of_next_reply {s t : State} {o : OpOutcome Value}
    (h : (.next (s.reply o) : Host.Outcome State Fault Refusal) = .next t) : t.outcomes = o :: s.outcomes := by
  cases h
  rfl

/-- `CH_CFG` of a context (R176). -/
theorem exec_chCfg {s : State} {h : Nat} {c : Channel} (hs : s.Running) (hc : s.ch[h]? = some c) :
    exec (.chCfg h) s = .next (s.reply (.ok (.word (configByte c)))) := by
  rw [exec, execChCfg, operateOn_of_running hs hc]
  rfl

/-- `IS_ACTIVE` of a context faults on an unwritten cache (R175, R215). -/
theorem exec_isActive_of_unwritten {s : State} {h : Nat} {c : Channel} (hs : s.Running) (hc : s.ch[h]? = some c)
    (hcached : s.dev.lastConfig = .unwritten) : exec (.isActive h) s = .next (s.faultedBy .unwrittenLastConfig) := by
  rw [exec, execIsActive, operateOn_of_running hs hc, activeChannel_of_unwritten hcached]
  exact congrArg _ (finish_fault _ hs.1)

/-- `IS_ACTIVE` of a context compares its mux index with the cached one (R175). -/
theorem exec_isActive_of_byte {s : State} {h : Nat} {c : Channel} {w : Byte} (hs : s.Running)
    (hc : s.ch[h]? = some c) (hcached : s.dev.lastConfig = .byte w) :
    exec (.isActive h) s = .next (s.reply (.ok (.bool (decide (muxField w = c.muxIndex))))) := by
  rw [exec, execIsActive, operateOn_of_running hs hc, activeChannel_of_byte hcached]
  rfl

/-- Where `IS_ACTIVE` answers `b`, its handle names a context, the cache is written, and `b` compares the two mux
codes. -/
theorem isActive_cause_of_reply {s : State} {h : Nat} {b : Bool}
    (he : exec (.isActive h) s = .next (s.reply (.ok (.bool b)))) :
    ∃ c w, s.ch[h]? = some c ∧ s.dev.lastConfig = .byte w ∧ b = decide (muxField w = c.muxIndex) := by
  obtain ⟨hs, ⟨-, hrefused⟩ | ⟨c, hc, -⟩⟩ := operateOn_next he
  · cases congrArg State.outcomes hrefused
  · obtain ⟨hcached, -⟩ | ⟨w, hcached, -⟩ := activeChannel_cases s
    · cases outcomes_of_next_reply (he.symm.trans (exec_isActive_of_unwritten hs hc hcached))
    · cases outcomes_of_next_reply (he.symm.trans (exec_isActive_of_byte hs hc hcached))
      exact ⟨c, w, hc, hcached, rfl⟩

/-- No operation changes the mux index of a context. -/
theorem exec_keeps_muxIndex {s t : State} {i : Instr} {h : Nat} {c : Channel} (he : exec i s = .next t)
    (hc : s.ch[h]? = some c) : ∃ c', t.ch[h]? = some c' ∧ c'.muxIndex = c.muxIndex := by
  obtain ⟨c', hc', rfl | hw⟩ := exec_getElem? he hc
  · exact ⟨_, hc', rfl⟩
  · exact ⟨c', hc', hw.muxIndex_eq⟩

/-- A `START` that returned a result is one whose write was answered `Ok` (R171). -/
theorem nextWriteAnswer_of_start_ok {s t : State} {h : Nat} {v : Value} (he : exec (.start h) s = .next t)
    (ho : t.outcomes = .ok v :: s.outcomes) (hlt : h < s.ch.length) : s.nextWriteAnswer = .ok := by
  obtain ⟨u, heff, -⟩ := exec_effect_of_outcome he ho
  cases heff with
  | none _ notStart => exact absurd rfl (notStart h hlt)
  | start _ answer => exact answer

/-- An operation leaves the Device alone unless it is an `INITIATE` or a `START` whose write succeeds (R53). -/
theorem exec_device_of_no_successful_write {s t : State} {i : Instr} (he : exec i s = .next t)
    (hno : ((∀ w, i ≠ .initiate w) ∧ ∀ h, i ≠ .start h) ∨ s.nextWriteAnswer = .transportError) :
    t.dev = s.dev := by
  obtain hdev | ⟨hanswer, w, initiates, -⟩ := exec_device he
  · exact hdev
  · obtain ⟨notInitiate, notStart⟩ | hfailed := hno
    · exact absurd initiates (not_initiates_iff.mpr ⟨notInitiate, fun h _ => notStart h⟩ w)
    · cases hanswer.symm.trans hfailed

/-- Settles O52. After `START h` the cached mux code is that of context `h`; and where the Device stays, so does the
comparison with every context's mux index, which no operation changes. -/
theorem startDecidesWhoIsActive : Obligations.StartDecidesWhoIsActive := by
  refine ⟨?started, ?kept⟩
  case started =>
    intro s t h c hc he ho
    obtain ⟨hs, -⟩ := exec_effect he
    obtain ⟨hlt, -⟩ := List.getElem?_eq_some_iff.mp hc
    have hanswer := nextWriteAnswer_of_start_ok he ho hlt
    obtain rfl : (s.started h c).reply (.ok .unit) = t := by
      simpa using (exec_start hs hc hanswer).symm.trans he
    have ht : ((s.started h c).reply (.ok .unit)).Running := hs
    have hmux : muxField (configByte c) = c.muxIndex := muxField_compose ..
    have hstarted : ((s.started h c).reply (.ok .unit)).ch[h]? = some { c with phase := .awaiting } :=
      List.getElem?_set_self hlt
    have hchCfg := exec_chCfg ht hstarted
    refine ⟨rfl, hchCfg, ?activeChan, ?isActive⟩
    case activeChan =>
      rw [exec_activeChan_of_byte ht rfl, hmux]
    case isActive =>
      intro h' c' hc'
      obtain ⟨d, hd, hdmux⟩ := exec_keeps_muxIndex he hc'
      rw [exec_isActive_of_byte ht hd rfl, hmux, hdmux, decide_eq_decide.mpr eq_comm]
  case kept =>
    intro s t i hno he
    have hdev := exec_device_of_no_successful_write he hno
    refine ⟨congrArg Device.lastConfig hdev, fun h b ht hactive => ?_⟩
    obtain ⟨c, w, hc, hcached, rfl⟩ := isActive_cause_of_reply hactive
    obtain ⟨c', hc', hmux⟩ := exec_keeps_muxIndex he hc
    rw [exec_isActive_of_byte ht hc' (hdev ▸ hcached), hmux]

end Sys2Proof.Machine
end

section
/-! PROOFS of the channel statements (44_channel.md R170 to R178): the checks of `CONFIGURE`, the write of `START`, and
the one read that `GET_RAW` and `GET_VOLTS` share, by its four ends. -/

namespace Sys2Proof.Machine

/-! ### CONFIGURE -/

/-- Settles O46: the gain is checked, then the rate, and only what passes both is written. -/
theorem configureResult : Obligations.ConfigureResult := by
  intro s h c gain rate b hs hc
  refine ⟨rfl, ?badGain, ?badRate, ?valid⟩
  case badGain =>
    intro hgain
    rw [exec, execConfigure, operateOn_of_running hs hc, checkGain_of_not_mem hgain]
    rfl
  case badRate =>
    intro hgain hrate
    obtain ⟨g, rfl⟩ := gain_mem_iff.mp hgain
    rw [exec, execConfigure, operateOn_of_running hs hc, checkGain_gainValue, checkRate_of_not_mem hrate]
    rfl
  case valid =>
    rintro g r rfl rfl hr
    rw [exec, execConfigure, operateOn_of_running hs hc, checkGain_gainValue, checkRate_rateSps hr]
    rfl

/-! ### START -/

/-- `START` of a context whose write failed (R171). -/
theorem exec_start_of_transportError {s : State} {h : Nat} {c : Channel} (hs : s.Running) (hc : s.ch[h]? = some c)
    (hanswer : s.nextWriteAnswer = .transportError) :
    exec (.start h) s = .next ((s.wrote (setStart (configByte c))).reply (.raise (.busError .write))) := by
  rw [exec, execStart, operateOn_of_running hs hc, initiateDevice_of_transportError hanswer]
  rfl

/-- Settles O47: the write's answer decides, and the state started is the same in whatever order its parts are
written. -/
theorem startResult : Obligations.StartResult :=
  fun _ _ _ hs hc => ⟨rfl, exec_start hs hc, exec_start_of_transportError hs hc⟩

/-! ### CONV_TIME and CH_CFG -/

/-- `CONV_TIME` of a context (R172). -/
theorem exec_convTime {s : State} {h : Nat} {c : Channel} (hs : s.Running) (hc : s.ch[h]? = some c) :
    exec (.convTime h) s = .next (s.reply (.ok (.seconds (1 / rateSps c.sampleRate)))) := by
  rw [exec, execConvTime, operateOn_of_running hs hc]
  rfl

/-- The config byte of a context as the number its fields add up to (R28, R66). -/
theorem configByte_eq_ofNat (c : Channel) :
    configByte c = BitVec.ofNat 8 (c.muxIndex.toNat * 32 + (contBit c.continuous).toNat * 16 +
      (rateCode c.sampleRate).toNat * 4 + (gainCode c.gain).toNat) := by
  obtain ⟨hsum, -⟩ := compositionIsSumOfFields c.muxIndex c.continuous c.sampleRate c.gain
  rw [← hsum, BitVec.ofNat_toNat, BitVec.setWidth_eq, configByte]

/-- Settles O48: the config byte is the sum of its fields. -/
theorem convTimeAndChCfgResults : Obligations.ConvTimeAndChCfgResults := by
  intro s h c hs hc
  refine ⟨rfl, rfl, exec_convTime hs hc, ?chCfg⟩
  case chCfg => rw [exec_chCfg hs hc, configByte_eq_ofNat]

/-! ### GET_RAW and GET_VOLTS -/

section GetRawCode
variable {s : State} {c : Channel} {cmd b0 b1 b2 : Byte} (hr : rateSettable c.sampleRate = true) (h : Nat)
include hr

/-- The unwritten cache is found before the bus is used (R173, R215). -/
theorem getRawCode_of_unwritten (hcached : s.dev.lastConfig = .unwritten) :
    getRawCode h c s = (.fault .unwrittenLastConfig, s) := by
  rw [getRawCode, getConversion_of_unwritten hr hcached]

/-- A read without a frame leaves the phase alone (R173). -/
theorem getRawCode_of_readFrame?_eq_none (hcached : s.dev.lastConfig = .byte cmd)
    (hframe : readFrame? s.nextReadAnswer = none) :
    getRawCode h c s = (.raise (.busError .read), s.didRead cmd) := by
  rw [getRawCode, getConversion_of_readFrame?_eq_none hr hcached hframe]

/-- A frame that is not ready leaves the phase alone (R173). -/
theorem getRawCode_of_not_ready (hcached : s.dev.lastConfig = .byte cmd)
    (hanswer : s.nextReadAnswer = .bytes [b0, b1, b2]) (hready : b2.getLsbD 7 = true) :
    getRawCode h c s = (.raise .conversionNotReady, s.didRead cmd) := by
  rw [getRawCode, getConversion_of_frame hr hcached hanswer, decodeFrame_of_not_ready (f := ⟨b0, b1, b2⟩) hready]

/-- A ready frame gives its code and makes the phase `Idle` (R173). -/
theorem getRawCode_of_ready (hcached : s.dev.lastConfig = .byte cmd)
    (hanswer : s.nextReadAnswer = .bytes [b0, b1, b2]) (hready : b2.getLsbD 7 = false) :
    getRawCode h c s =
      (.ok (frameCode b0 b1 (rateRes c.sampleRate) (rateMaxCode c.sampleRate)), s.gotCode cmd h c) := by
  rw [getRawCode, getConversion_of_frame hr hcached hanswer, decodeFrame_of_ready (f := ⟨b0, b1, b2⟩) hready]
  rfl

end GetRawCode

/-- The four ends of an operation `i` that reads the context `c` of handle `h`, a code returned as `value` of it
(R173, R174). -/
def ChannelReadEnds (s : State) (h : Nat) (c : Channel) (i : Instr) (value : Int → Value) : Prop :=
  (s.dev.lastConfig = .unwritten → exec i s = .next (s.faultedBy .unwrittenLastConfig)) ∧
    ∀ cmd : Byte, s.dev.lastConfig = .byte cmd →
      ((∀ b0 b1 b2 : Byte, s.nextReadAnswer ≠ .bytes [b0, b1, b2]) →
        exec i s = .next ((s.didRead cmd).reply (.raise (.busError .read)))) ∧
      ∀ b0 b1 b2 : Byte, s.nextReadAnswer = .bytes [b0, b1, b2] →
        (b2.getLsbD 7 = true → exec i s = .next ((s.didRead cmd).reply (.raise .conversionNotReady))) ∧
        (b2.getLsbD 7 = false →
          exec i s = .next ((s.gotCode cmd h c).reply
            (.ok (value (frameCode b0 b1 (rateRes c.sampleRate) (rateMaxCode c.sampleRate))))))

section ChannelRead
variable {s : State} {h : Nat} {c : Channel} (hs : s.Running)
include hs

/-- An operation that returns what `GET_RAW` gives has the ends of `GET_RAW`. -/
theorem channelReadEnds_of_exec_eq {i : Instr} {value : Int → Value} (hr : rateSettable c.sampleRate = true)
    (hexec : exec i s = .next (finish ((getRawCode h c s).1.map value, (getRawCode h c s).2))) :
    ChannelReadEnds s h c i value := by
  refine ⟨?unwritten, fun cmd hcached => ⟨?noFrame, fun b0 b1 b2 hanswer => ⟨?notReady, ?ready⟩⟩⟩
  case unwritten =>
    intro hcached
    rw [hexec, getRawCode_of_unwritten hr h hcached]
    exact congrArg _ (finish_fault _ hs.1)
  case noFrame =>
    intro hanswer
    rw [hexec, getRawCode_of_readFrame?_eq_none hr h hcached (readFrame?_eq_none hanswer)]
    rfl
  case notReady =>
    intro hready
    rw [hexec, getRawCode_of_not_ready hr h hcached hanswer hready]
    rfl
  case ready =>
    intro hready
    rw [hexec, getRawCode_of_ready hr h hcached hanswer hready]
    rfl

variable (hc : s.ch[h]? = some c) (hr : rateSettable c.sampleRate = true)
include hc hr

/-- `GET_RAW` returns the code (R173). -/
theorem channelReadEnds_getRaw : ChannelReadEnds s h c (.getRaw h) .code := by
  apply channelReadEnds_of_exec_eq hs hr
  rw [exec, execGetRaw, operateOn_of_running hs hc]

/-- `GET_VOLTS` returns the code scaled (R174, R192). -/
theorem channelReadEnds_getVolts :
    ChannelReadEnds s h c (.getVolts h) fun code => .volts (scaleVolts code c.gain (rateMaxCode c.sampleRate)) := by
  apply channelReadEnds_of_exec_eq hs hr
  rw [exec, execGetVolts, operateOn_of_running hs hc]
  rfl

end ChannelRead

/-- A rate at the speed of a row is the settable rate of that row. -/
theorem rateSettable_of_mem_rateRows {row : Rat × Nat × Int × Byte} (hrow : row ∈ rateRows) {r : Rate}
    (hrate : rateSps r = row.1) :
    rateSettable r = true ∧ row.2.1 = rateRes r ∧ row.2.2.1 = rateMaxCode r := by
  obtain ⟨r', hr, hsps, hres, hmax⟩ := rateRows_settable hrow
  obtain rfl : r = r' := rateSps_injective (hrate.trans hsps)
  exact ⟨hr, hres, hmax⟩

/-- Settles O49: the ends of a read at the width of the context's rate. -/
theorem getRawResult : Obligations.GetRawResult := by
  intro s h c hs hc
  refine ⟨rfl, fun row hrow hrate => ?_⟩
  obtain ⟨hr, hres, hmax⟩ := rateSettable_of_mem_rateRows hrow hrate
  rw [hres, hmax]
  exact channelReadEnds_getRaw hs hc hr

/-- Settles O50: the ends of the same read, its code scaled at the context's gain and full-scale code. -/
theorem getVoltsResult : Obligations.GetVoltsResult := by
  intro s h c hs hc
  refine ⟨rfl, fun row hrow hrate => ?_⟩
  obtain ⟨hr, hres, hmax⟩ := rateSettable_of_mem_rateRows hrow hrate
  simp only [hres, hmax, ← scaleVolts_eq_div]
  exact channelReadEnds_getVolts hs hc hr

/-- Settles O53: the invariant makes the context's rate a settable one, so the read is performed, whatever the mode;
without a frame it ends in `BusError`, and with one the ready bit decides. -/
theorem everyReadEndsInResultOrListedError : Obligations.EveryReadEndsInResultOrListedError := by
  intro s h c cmd hs hinv hc hcached
  obtain ⟨-, hr⟩ := hinv.channels c (List.mem_of_getElem? hc)
  obtain ⟨-, hends⟩ := channelReadEnds_getVolts hs hc hr
  obtain ⟨hnoFrame, hframe⟩ := hends cmd hcached
  by_cases hanswer : ∃ b0 b1 b2 : Byte, s.nextReadAnswer = .bytes [b0, b1, b2]
  · obtain ⟨b0, b1, b2, hanswer⟩ := hanswer
    obtain ⟨hnotReady, hready⟩ := hframe b0 b1 b2 hanswer
    cases hbit : b2.getLsbD 7 with
    | true => exact ⟨_, _, hnotReady hbit, hs, rfl, rfl, .inr (.inl rfl)⟩
    | false => exact ⟨_, _, hready hbit, hs, rfl, rfl, .inl ⟨_, rfl⟩⟩
  · have he := hnoFrame fun b0 b1 b2 hbytes => hanswer ⟨b0, b1, b2, hbytes⟩
    exact ⟨_, _, he, hs, rfl, rfl, .inr (.inr rfl)⟩

/-! ### IS_ACTIVE -/

/-- The mux field as the number in bits 6:5 (R60). -/
theorem toNat_muxField (w : Byte) : (muxField w).toNat = w.toNat / 32 % 4 := toNat_extractLsb'_eq_div_mod w 5 2

/-- Settles O51: mux codes are equal when their numbers are. -/
theorem isActiveResult : Obligations.IsActiveResult := by
  intro s h c hs hc
  refine ⟨rfl, exec_isActive_of_unwritten hs hc, ?written⟩
  case written =>
    intro w hcached
    have hcompare : muxField w = c.muxIndex ↔ w.toNat / 32 % 4 = c.muxIndex.toNat := by
      rw [← BitVec.toNat_inj, toNat_muxField]
    rw [exec_isActive_of_byte hs hc hcached, decide_eq_decide.mpr hcompare]

end Sys2Proof.Machine
end

section
/-! PROOFS of the scaler statements (45_voltage_scaler.md R190 to R195): `SCALE` by its checks in their order, then
`scaleVolts` as a positive step for each code, from which its laws and the widths of its pair follow. -/

namespace Sys2Proof.Machine

/-! ### SCALE -/

theorem maxCode_mem_iff {maxCode : Int} :
    maxCode ∈ ([2047, 8191, 32767] : List Int) ↔ ∃ r : Rate, rateSettable r = true ∧ maxCode = rateMaxCode r := by
  constructor
  · intro hmem
    simp only [List.mem_cons, List.not_mem_nil, or_false] at hmem
    obtain rfl | rfl | rfl := hmem
    exacts [⟨.sps240, rfl, rfl⟩, ⟨.sps60, rfl, rfl⟩, ⟨.sps15, rfl, rfl⟩]
  · rintro ⟨r, hr, rfl⟩
    cases r with
    | sps3p75 => cases hr
    | _ => decide

theorem checkMaxCode_of_not_mem {maxCode : Int} (h : maxCode ∉ ([2047, 8191, 32767] : List Int)) :
    checkMaxCode maxCode = .error (.invalidArgument .maxCode (.int maxCode)) := by
  obtain ⟨r, hmax, hr, -⟩ | ⟨-, herror⟩ := checkMaxCode_cases maxCode
  · exact absurd (maxCode_mem_iff.mpr ⟨r, hr, hmax⟩) h
  · exact herror

/-- `SCALE` at the 18-bit full-scale code is refused before any argument is checked (R190, R217). -/
theorem exec_scale_of_eighteenBit {s : State} (hs : s.Running) (raw gain : Int) :
    exec (.scale raw gain (rateMaxCode .sps3p75)) s = .next (s.refusedBy .unsupported18Bit) := by
  rw [exec, execScale, if_pos rfl, compute_of_running hs]
  exact congrArg _ (finish_refuse _ hs.2)

/-- `SCALE` at any other full-scale code is decided by the checks of gain and full-scale code, in this order (R190). -/
theorem exec_scale_of_ne {s : State} (hs : s.Running) (raw gain : Int) {maxCode : Int}
    (hmax : maxCode ≠ rateMaxCode .sps3p75) :
    exec (.scale raw gain maxCode) s =
      .next (s.reply (.lift ((checkGain gain).bind fun g =>
        (checkMaxCode maxCode).map fun r => .volts (scaleVolts raw g (rateMaxCode r))))) := by
  rw [exec, execScale, if_neg hmax]
  exact compute_lift hs _

/-- Settles O54: the 18-bit refusal, then the gain, then the full-scale code; what passes is `exec_scale`. -/
theorem scaleResult : Obligations.ScaleResult := by
  intro s raw gain maxCode hs
  refine ⟨rfl, ?refused, ?badGain, ?badMaxCode, ?valid⟩
  case refused =>
    rintro rfl
    exact exec_scale_of_eighteenBit hs raw gain
  case badGain =>
    intro hne hgain
    rw [exec_scale_of_ne hs raw gain hne, checkGain_of_not_mem hgain]
    rfl
  case badMaxCode =>
    intro hne hgain hmax
    obtain ⟨g, rfl⟩ := gain_mem_iff.mp hgain
    rw [exec_scale_of_ne hs raw _ hne, checkGain_gainValue, checkMaxCode_of_not_mem hmax]
    rfl
  case valid =>
    intro hgain hmax
    obtain ⟨g, rfl⟩ := gain_mem_iff.mp hgain
    obtain ⟨r, hr, rfl⟩ := maxCode_mem_iff.mp hmax
    rw [exec_scale hs raw g hr, scaleVolts_eq_div, Int.cast_natCast]

/-- Settles O55: division by the gain and by the full-scale code commute; the quotient is `scaleVolts_eq_div`. -/
theorem scaleFormulationsAgree : Obligations.ScaleFormulationsAgree := by
  intro raw maxCode g
  refine ⟨?_, scaleVolts_eq_div raw g maxCode⟩
  rw [scaleVolts, mul_div_assoc, div_right_comm, ← mul_div_assoc]

/-! ### The laws of the scaler -/

theorem gainValue_pos (g : Gain) : 0 < gainValue g := by cases g <;> decide

theorem rateMaxCode_pos (r : Rate) : 0 < rateMaxCode r := by cases r <;> decide

/-- The scaler multiplies the code by the step of one code (R190, R194). -/
theorem scaleVolts_eq_mul_step (raw : Int) (g : Gain) (maxCode : Int) :
    scaleVolts raw g maxCode = raw * scaleVolts 1 g maxCode := by
  simp only [scaleVolts, Int.cast_one, one_mul, mul_div_assoc]

theorem scaleVolts_one (g : Gain) (maxCode : Int) :
    scaleVolts 1 g maxCode = 256 / (125 * (maxCode : Rat) * (gainValue g : Rat)) := by
  rw [scaleVolts_eq_div, Int.cast_one, one_mul]

theorem scaleVolts_one_pos (g : Gain) {maxCode : Int} (hmax : 0 < maxCode) : 0 < scaleVolts 1 g maxCode := by
  have hgain : (0 : Rat) < gainValue g := Nat.cast_pos.mpr (gainValue_pos g)
  have hmaxCode : (0 : Rat) < maxCode := Int.cast_pos.mpr hmax
  rw [scaleVolts_one]
  positivity

theorem scaleVolts_add (a b : Int) (g : Gain) (maxCode : Int) :
    scaleVolts (a + b) g maxCode = scaleVolts a g maxCode + scaleVolts b g maxCode := by
  rw [scaleVolts_eq_mul_step, Int.cast_add, add_mul, ← scaleVolts_eq_mul_step, ← scaleVolts_eq_mul_step]

theorem scaleVolts_neg (a : Int) (g : Gain) (maxCode : Int) :
    scaleVolts (-a) g maxCode = -scaleVolts a g maxCode := by
  rw [scaleVolts_eq_mul_step, Int.cast_neg, neg_mul, ← scaleVolts_eq_mul_step]

theorem scaleVolts_pos_iff (a : Int) (g : Gain) {maxCode : Int} (hmax : 0 < maxCode) :
    0 < scaleVolts a g maxCode ↔ 0 < a := by
  rw [scaleVolts_eq_mul_step, mul_pos_iff_of_pos_right (scaleVolts_one_pos g hmax), Int.cast_pos]

/-- A doubled gain halves the volts (R194). -/
theorem scaleVolts_of_doubled_gain (a : Int) {g g' : Gain} (hg' : gainValue g' = 2 * gainValue g) (maxCode : Int) :
    scaleVolts a g' maxCode = scaleVolts a g maxCode / 2 := by
  rw [scaleVolts, scaleVolts, hg', Nat.cast_mul, Nat.cast_ofNat, mul_comm 2, div_mul_eq_div_div]

/-- The scaler keeps the order of codes (R194). -/
theorem scaleVolts_le_scaleVolts (g : Gain) {maxCode : Int} (hmax : 0 < maxCode) {a b : Int} (h : a ≤ b) :
    scaleVolts a g maxCode ≤ scaleVolts b g maxCode := by
  rw [scaleVolts_eq_mul_step a, scaleVolts_eq_mul_step b]
  exact mul_le_mul_of_nonneg_right (Int.cast_le.mpr h) (scaleVolts_one_pos g hmax).le

/-- The full-scale code is the reference over the gain (R194). -/
theorem scaleVolts_maxCode (g : Gain) {maxCode : Int} (hmax : 0 < maxCode) :
    scaleVolts maxCode g maxCode = Config.vref / (gainValue g : Rat) := by
  rw [scaleVolts, mul_div_cancel₀ _ (Int.cast_ne_zero.mpr hmax.ne')]

/-- The least code, one step past the negated full-scale code (R194). -/
theorem scaleVolts_minCode (g : Gain) (maxCode : Int) :
    scaleVolts (-(maxCode + 1)) g maxCode =
      -(Config.vref * ((maxCode : Rat) + 1) / ((maxCode : Rat) * (gainValue g : Rat))) := by
  unfold scaleVolts
  push_cast
  ring

/-- Settles O56: the scaler is a multiple of the code by a positive step, so the sign of a negative
code is that of its negation by oddness; the bounds are its values at the ends of the range of codes. -/
theorem scaleLaws : Obligations.ScaleLaws := by
  intro g row hrow a b
  obtain ⟨r, -, -, -, hmax⟩ := rateRows_settable hrow
  rw [hmax]
  have hpos := rateMaxCode_pos r
  refine ⟨scaleVolts_add a b g _, scaleVolts_neg a g _, scaleVolts_pos_iff a g hpos, ?negative, scaleVolts_one g _,
    fun g' hg' => scaleVolts_of_doubled_gain a hg' _, ?range⟩
  case negative => rw [← neg_pos, ← scaleVolts_neg, scaleVolts_pos_iff _ g hpos, neg_pos]
  case range =>
    intro hlow hhigh
    rw [← scaleVolts_minCode, ← scaleVolts_maxCode g hpos]
    exact ⟨scaleVolts_le_scaleVolts g hpos hlow, scaleVolts_le_scaleVolts g hpos hhigh⟩

/-! ### The widths of the exact pair -/

theorem gainValue_le (g : Gain) : gainValue g ≤ 8 := by cases g <;> decide

/-- The greatest supported full-scale code is that of 16 bits (R100). -/
theorem rateMaxCode_le_of_settable {r : Rate} (hr : rateSettable r = true) : rateMaxCode r ≤ 32767 := by
  cases r with
  | sps3p75 => cases hr
  | _ => decide

/-- The code of a frame is in `-(mc+1) .. mc` (R132). -/
theorem frameCode_mem_codeRange (b0 b1 : Byte) (r : Rate) :
    -(rateMaxCode r + 1) ≤ frameCode b0 b1 (rateRes r) (rateMaxCode r) ∧
      frameCode b0 b1 (rateRes r) (rateMaxCode r) ≤ rateMaxCode r := by
  rw [frameCode_eq_toInt b0 b1 (two_mul_rateMaxCode_add_one r)]
  exact toInt_mem_codeRange _

/-- Settles O57: the numerator is bounded by the range of codes, the denominator by the greatest full-scale code and
gain; the quotient is `scaleVolts_eq_div`. -/
theorem scalePairWidths : Obligations.ScalePairWidths := by
  intro b0 b1 g row hrow
  obtain ⟨r, hr, -, hres, hmax⟩ := rateRows_settable hrow
  rw [hres, hmax]
  obtain ⟨hlow, hhigh⟩ := frameCode_mem_codeRange b0 b1 r
  have hfull := rateMaxCode_le_of_settable hr
  refine ⟨by omega, by omega, ?denominator, ?quotient⟩
  case denominator =>
    have hgain : (gainValue g : Int) ≤ 8 := Int.ofNat_le.mpr (gainValue_le g)
    calc 125 * rateMaxCode r * (gainValue g : Int)
        ≤ 125 * 32767 * 8 := by gcongr
      _ = 32767000 := by norm_num
  case quotient => simp only [scaleVolts_eq_div, Int.cast_mul, Int.cast_ofNat, Int.cast_natCast]

end Sys2Proof.Machine
end

section
/-! PROOFS of the exception statements (60_exceptions.md R210 to R219): the gate after a recorded stop, what recorded a
fault or a refusal, read off the one effect that can end in it, and the causes of two of the architected errors. -/

namespace Sys2Proof.Machine

/-! ### The gate -/

/-- Every operation and the step stand behind the gate: a recorded fault is the answer of both (R218). -/
theorem exec_step_of_fault {s : State} {f : Fault} (hf : s.fault = some f) (i : Instr) :
    exec i s = .fault f ∧ step s = .fault f := by
  obtain ⟨r, hgate⟩ := exec_eq_gate_finish i s
  exact ⟨hgate.trans (gate_of_fault hf _), gate_of_fault hf _⟩

/-- Likewise a recorded refusal, where no fault is recorded (R218). -/
theorem exec_step_of_refused {s : State} {x : Refusal} (hf : s.fault = none) (hx : s.refused = some x) (i : Instr) :
    exec i s = .refused x ∧ step s = .refused x := by
  obtain ⟨r, hgate⟩ := exec_eq_gate_finish i s
  exact ⟨hgate.trans (gate_of_refused hf hx _), gate_of_refused hf hx _⟩

/-- Settles O7: the gate's two closed cases. -/
theorem recordedStopEndsEveryStep : Obligations.RecordedStopEndsEveryStep :=
  fun _ i => ⟨fun _ hf => exec_step_of_fault hf i, fun _ hf hx => exec_step_of_refused hf hx i⟩

/-! ### What records a refusal -/

/-- A byte that is no opcode of the map names no operation (R74). -/
theorem ofByte?_eq_none_of_not_mem {b : Byte} (h : b ∉ Op.all.map Op.byte) : Op.ofByte? b = none := by
  simpa [Op.ofByte?] using h

/-- A running block refuses a command that is issued with an opcode outside the map (R74, R216). -/
theorem step_issue_of_illegalOpcode {s : State} {c : Command} (hs : s.Running) (hop : c.op ∉ Op.all.map Op.byte) :
    step (s.issue c) = .next (s.refusedBy (.illegalOpcode c.op)) :=
  step_of_decode_error (s := s.issue c) hs rfl
    ((decode_eq_error_iff c _).mpr ⟨ofByte?_eq_none_of_not_mem hop, rfl⟩)

/-- An operation that is refused, on a handle that names no context or at the 18-bit resolution, has no effect
(R216). -/
theorem Effect.eq_of_refuse {s u : State} {i : Instr} {x : Refusal} (heff : Effect s i (.refuse x) u) :
    u = s ∧ (x = .unsupported18Bit ∨ ∃ h, x = .badHandle h ∧ s.ch.length ≤ h) := by
  cases heff with
  | none _ _ _ _ refuse => exact ⟨rfl, refuse x rfl⟩

/-- The effect behind a refusal that an operation recorded. -/
theorem effect_of_exec_refused {s t : State} {i : Instr} {x : Refusal} (he : exec i s = .next t)
    (hx : t.refused = some x) : ∃ u, Effect s i (.refuse x) u := by
  obtain ⟨hs, o, u, heff, rfl⟩ := exec_effect he
  obtain ⟨-, hrefused, -⟩ := heff.bookkeeping
  obtain rfl := (finish_refused_eq_some_iff (hrefused.trans hs.2) o x).mp hx
  exact ⟨u, heff⟩

/-- Settles O9: an opcode outside the map by the decoder, the channel operations by their lookup of the context, the
18-bit resolution by the checks of `DECODE`, `GET_CONV` and `SCALE`; the gate afterwards; and no other cause, since one
effect alone ends in a refusal. -/
theorem refusalsAreRecordedAndStop : Obligations.RefusalsAreRecordedAndStop := by
  refine ⟨?opcode, ?handle, ?eighteenBit, ?stop, ?cause⟩
  case opcode =>
    intro s c hs hop
    have hmap : c.op ∉ Op.all.map Op.byte := hop
    exact step_issue_of_illegalOpcode hs hmap
  case handle =>
    intro s h gain rate b hs hlen
    have hc : s.ch[h]? = none := List.getElem?_eq_none hlen
    simp only [List.mem_cons, List.not_mem_nil, or_false, forall_eq_or_imp, forall_eq]
    simp only [exec, execConfigure, execStart, execConvTime, execGetRaw, execGetVolts, execIsActive, execChCfg,
      operateOn_badHandle hs hc, and_self]
  case eighteenBit =>
    intro s b0 b1 b2 raw gain hs
    obtain ⟨-, hdecode, -⟩ := decodeResult s b0 b1 b2 hs
    obtain ⟨-, hgetConv, -⟩ := getConvResult s hs
    simp only [List.mem_cons, List.not_mem_nil, or_false, forall_eq_or_imp, forall_eq]
    exact ⟨hdecode, hgetConv, exec_scale_of_eighteenBit hs raw gain⟩
  case stop => exact fun s x i hf => exec_step_of_refused (s := s.refusedBy x) hf rfl i
  case cause =>
    intro s t i x he hx
    obtain ⟨u, heff⟩ := effect_of_exec_refused he hx
    exact heff.eq_of_refuse.2

/-! ### What records the fault -/

/-- `ACTIVE_CHAN` faults on an unwritten cache (R152, R215). -/
theorem exec_activeChan_of_unwritten {s : State} (hs : s.Running) (hcached : s.dev.lastConfig = .unwritten) :
    exec .activeChan s = .next (s.faultedBy .unwrittenLastConfig) := by
  obtain ⟨-, hfault, -⟩ := activeChanResult s hs
  exact hfault hcached

/-- `GET_CONV` at a settable rate faults on an unwritten cache (R151, R215). -/
theorem exec_getConv_of_unwritten {s : State} (hs : s.Running) (hcached : s.dev.lastConfig = .unwritten) {r : Rate}
    (hr : rateSettable r = true) : exec (.getConv (rateSps r)) s = .next (s.faultedBy .unwrittenLastConfig) := by
  rw [exec_getConv hs (getConversion_of_unwritten hr hcached)]
  exact congrArg _ (finish_fault _ hs.1)

/-- An operation that faults is one of the five readers of an unwritten cache and has no effect (R215). -/
theorem Effect.eq_of_fault {s u : State} {i : Instr} {f : Fault} (heff : Effect s i (.fault f) u) :
    u = s ∧ s.dev.lastConfig = .unwritten ∧ ReadsCache i := by
  cases heff with
  | none _ _ fault => exact ⟨rfl, fault f rfl⟩

/-- The effect behind a fault that an operation recorded. -/
theorem effect_of_exec_fault {s t : State} {i : Instr} {f : Fault} (he : exec i s = .next t)
    (hf : t.fault = some f) : ∃ u, Effect s i (.fault f) u ∧ t = finish (.fault f, u) := by
  obtain ⟨hs, o, u, heff, rfl⟩ := exec_effect he
  obtain ⟨hfault, -⟩ := heff.bookkeeping
  obtain rfl := (finish_fault_eq_some_iff (hfault.trans hs.1) o f).mp hf
  exact ⟨u, heff, rfl⟩

/-- Settles O10: the five readers on an unwritten cache; the one effect that ends in a fault, for the converse; and the
gate afterwards. -/
theorem unwrittenCacheFaults : Obligations.UnwrittenCacheFaults := by
  refine ⟨?device, ?channel, ?cause, ?stop⟩
  case device =>
    intro s rate hs hcached hrate
    obtain ⟨r, hr, rfl⟩ := rate_mem_iff.mp (by simpa using hrate)
    simp only [List.mem_cons, List.not_mem_nil, or_false, forall_eq_or_imp, forall_eq]
    exact ⟨exec_getConv_of_unwritten hs hcached hr, exec_activeChan_of_unwritten hs hcached⟩
  case channel =>
    intro s h c hs hcached hc hr
    obtain ⟨hgetRaw, -⟩ := channelReadEnds_getRaw hs hc hr
    obtain ⟨hgetVolts, -⟩ := channelReadEnds_getVolts hs hc hr
    simp only [List.mem_cons, List.not_mem_nil, or_false, forall_eq_or_imp, forall_eq]
    exact ⟨hgetRaw hcached, hgetVolts hcached, exec_isActive_of_unwritten hs hc hcached⟩
  case cause =>
    intro s t i f he hf
    obtain ⟨hs, -⟩ := exec_effect he
    obtain ⟨u, heff, rfl⟩ := effect_of_exec_fault he hf
    obtain ⟨rfl, hcached, reads⟩ := heff.eq_of_fault
    exact ⟨hcached, finish_fault _ hs.1, reads⟩
  case stop =>
    intro s f i
    obtain ⟨hexec, hstep⟩ := exec_step_of_fault (s := s.faultedBy f) rfl i
    exact ⟨hexec, hstep, fun ⟨_, hnone, _⟩ => nomatch hnone⟩

/-! ### The causes of the architected errors -/

/-- An operation that raises `InvalidArgument` has no effect (R211). -/
theorem Effect.eq_of_invalidArgument {s u : State} {i : Instr} {field : ArgField} {v : ArgValue}
    (heff : Effect s i (.raise (.invalidArgument field v)) u) : u = s := by
  cases heff with
  | none => rfl

/-- Settles O21: no effect, so only the outcome is added. -/
theorem invalidArgumentBeforeAnyEffect : Obligations.InvalidArgumentBeforeAnyEffect := by
  intro s t i field v he ho
  obtain ⟨u, heff, rfl⟩ := exec_effect_of_outcome he ho
  rw [heff.eq_of_invalidArgument, finish_raise]

/-- An operation that raises `ConversionNotReady` decoded a frame whose ready bit is set, given to `DECODE` or read by
an operation that reads the bus (R212). -/
theorem Effect.notReady_cause {s u : State} {i : Instr} (heff : Effect s i (.raise .conversionNotReady) u) :
    ∃ b0 b1 b2 : Byte, b2.getLsbD 7 = true ∧
      ((∃ rate, i = .decode b0 b1 b2 rate) ∨ s.nextReadAnswer = .bytes [b0, b1, b2] ∧ ReadsBus i) := by
  cases heff with
  | none _ _ _ notReady =>
    obtain ⟨b0, b1, b2, rate, hready, hi⟩ := notReady rfl
    exact ⟨b0, b1, b2, hready, .inl ⟨rate, hi⟩⟩
  | readNotReady _ answer ready reads => exact ⟨_, _, _, ready, .inr ⟨answer, reads⟩⟩

/-- Settles O40: errors leave the Device and the contexts alone, and this one has its cause in the frame. -/
theorem notReadyComesFromReadyBit : Obligations.NotReadyComesFromReadyBit := by
  intro s t i he ho
  obtain ⟨hdev, hch, -⟩ := errorsLeaveStateUnchanged s t i _ he ho
  obtain ⟨u, heff, -⟩ := exec_effect_of_outcome he ho
  exact ⟨hdev, hch, heff.notReady_cause⟩

/-! ### The codes -/

/-- Settles O22: the table of codes, row by row. -/
theorem outcomeCodes : Obligations.OutcomeCodes :=
  ⟨fun _ => rfl, fun _ _ => rfl, rfl, fun _ => rfl, fun _ => ⟨rfl, rfl, rfl, rfl, rfl⟩, rfl, rfl, rfl⟩

end Sys2Proof.Machine
end

section
/-! PROOFS of the reset statements (70_reset_and_hazards.md R240, R241): what the construction of a context, of a list
of contexts and of the block gives, each said once for valid arguments and once for invalid ones. -/

namespace Sys2Proof.Machine

/-! ### Constructing a context -/

/-- A context as R241 constructs it from its arguments. -/
def Channel.BuiltFrom (a : ContextArgs) (c : Channel) : Prop :=
  (c.muxIndex.toNat : Int) = a.index ∧ (gainValue c.gain : Int) = a.gain ∧ rateSps c.sampleRate = a.rate ∧
    c.continuous = a.continuous ∧ c.phase = .idle

theorem contextArgsValid_iff {count : Int} {a : ContextArgs} :
    ContextArgsValid count a ↔
      (0 ≤ a.index ∧ a.index < count) ∧ a.gain ∈ ([1, 2, 4, 8] : List Int) ∧ a.rate ∈ ([15, 60, 240] : List Rat) := by
  simp [ContextArgsValid]

section ConstructContext

variable {count : ChannelCount} {a : ContextArgs}

theorem constructContext_of_invalid_index (hindex : ¬(0 ≤ a.index ∧ a.index < channelCountValue count)) :
    constructContext count a = .error (.invalidArgument .channel (.int a.index)) := by
  rw [constructContext, checkChannel_of_invalid hindex]
  rfl

theorem constructContext_of_invalid_gain (hindex : 0 ≤ a.index ∧ a.index < channelCountValue count)
    (hgain : a.gain ∉ ([1, 2, 4, 8] : List Int)) :
    constructContext count a = .error (.invalidArgument .gain (.int a.gain)) := by
  obtain ⟨m, hm⟩ := checkChannel_of_valid hindex
  rw [constructContext, hm, checkGain_of_not_mem hgain]
  rfl

theorem constructContext_of_invalid_rate (hindex : 0 ≤ a.index ∧ a.index < channelCountValue count)
    (hgain : a.gain ∈ ([1, 2, 4, 8] : List Int)) (hrate : a.rate ∉ ([15, 60, 240] : List Rat)) :
    constructContext count a = .error (.invalidArgument .rate (.rat a.rate)) := by
  obtain ⟨m, hm⟩ := checkChannel_of_valid hindex
  obtain ⟨g, hg⟩ := gain_mem_iff.mp hgain
  rw [constructContext, hm, hg, checkGain_gainValue, checkRate_of_not_mem hrate]
  rfl

theorem constructContext_of_valid (h : ContextArgsValid (channelCountValue count) a) :
    ∃ c : Channel, constructContext count a = .ok c ∧ c.BuiltFrom a ∧ c.Valid count := by
  obtain ⟨hindex, hgain, hrate⟩ := contextArgsValid_iff.mp h
  obtain ⟨g, hg⟩ := gain_mem_iff.mp hgain
  obtain ⟨r, hr, hsps⟩ := rate_mem_iff.mp hrate
  obtain ⟨m, hm, hlt, hmux⟩ | ⟨hnot, -⟩ := checkChannel_cases count a.index
  · refine ⟨⟨m, g, r, a.continuous, .idle⟩, ?_, ⟨hm, hg.symm, hsps.symm, rfl, rfl⟩, hlt, hr⟩
    rw [constructContext, hmux, hg, checkGain_gainValue, hsps, checkRate_rateSps hr]
    rfl
  · exact absurd hindex hnot

theorem constructContext_of_invalid (h : ¬ContextArgsValid (channelCountValue count) a) :
    ∃ e : OpError, constructContext count a = .error e := by
  rw [contextArgsValid_iff] at h
  by_cases hindex : 0 ≤ a.index ∧ a.index < channelCountValue count
  · by_cases hgain : a.gain ∈ ([1, 2, 4, 8] : List Int)
    · exact ⟨_, constructContext_of_invalid_rate hindex hgain fun hrate => h ⟨hindex, hgain, hrate⟩⟩
    · exact ⟨_, constructContext_of_invalid_gain hindex hgain⟩
  · exact ⟨_, constructContext_of_invalid_index hindex⟩

end ConstructContext

/-! ### Constructing the contexts -/

theorem constructContexts_of_valid {count : ChannelCount} {args : List ContextArgs}
    (hargs : ∀ a ∈ args, ContextArgsValid (channelCountValue count) a) (h : Nat) :
    ∃ cs : List Channel, constructContexts count h args = .ok cs ∧ List.Forall₂ Channel.BuiltFrom args cs ∧
      ∀ c ∈ cs, c.Valid count := by
  induction args generalizing h with
  | nil => exact ⟨[], rfl, .nil, by simp⟩
  | cons a rest ih =>
    obtain ⟨ha, hrest⟩ := List.forall_mem_cons.mp hargs
    obtain ⟨c, hok, hc, hvalid⟩ := constructContext_of_valid ha
    obtain ⟨cs, hoks, hcs, hvalids⟩ := ih hrest (h + 1)
    refine ⟨c :: cs, ?_, .cons hc hcs, List.forall_mem_cons.mpr ⟨hvalid, hvalids⟩⟩
    rw [constructContexts, hok, hoks]
    rfl

/-- One context with an invalid argument is enough (R241). -/
theorem constructContexts_of_invalid {count : ChannelCount} {args : List ContextArgs}
    (hargs : ¬∀ a ∈ args, ContextArgsValid (channelCountValue count) a) (h : Nat) :
    ∃ e : BuildError, constructContexts count h args = .error e := by
  induction args generalizing h with
  | nil => exact absurd (by simp) hargs
  | cons a rest ih =>
    by_cases ha : ContextArgsValid (channelCountValue count) a
    · obtain ⟨c, hok, -⟩ := constructContext_of_valid ha
      obtain ⟨e, herror⟩ := ih (fun hrest => hargs (List.forall_mem_cons.mpr ⟨ha, hrest⟩)) (h + 1)
      exact ⟨e, by rw [constructContexts, hok, herror]; rfl⟩
    · obtain ⟨e, herror⟩ := constructContext_of_invalid ha
      exact ⟨.context h e, by rw [constructContexts, herror]⟩

/-! ### Building the block -/

/-- A block as R240 builds it from its parameters, its contexts as R37(b) has them. -/
structure State.BuiltFrom (p : BuildParams) (s : State) : Prop where
  address : (s.dev.address.toNat : Int) = p.devAddress
  channelCount : (channelCountValue s.dev.channelCount : Int) = p.channelCount
  lastConfig : s.dev.lastConfig = .unwritten
  running : s.Running
  txns : s.txns = []
  contexts : List.Forall₂ Channel.BuiltFrom p.contexts s.ch
  channels : ∀ c ∈ s.ch, c.Valid s.dev.channelCount

/-- What `BuildParamsValid` asks of the channel count is that it is the count of a variant. -/
theorem channelCount_mem_iff {n : Int} :
    (n = 1 ∨ n = 2 ∨ n = 4) ↔ ∃ count : ChannelCount, n = channelCountValue count := by
  constructor
  · rintro (rfl | rfl | rfl)
    exacts [⟨.one, rfl⟩, ⟨.two, rfl⟩, ⟨.four, rfl⟩]
  · rintro ⟨count, rfl⟩
    cases count <;> decide

theorem toNat_ofInt_of_address {n : Int} (h : 0 ≤ n ∧ n ≤ 127) : ((BitVec.ofInt 7 n).toNat : Int) = n := by
  rw [BitVec.toNat_ofInt]
  omega

theorem build_of_valid {p : BuildParams} (hp : BuildParamsValid p) : ∃ s : State, build p = .ok s ∧ s.BuiltFrom p := by
  obtain ⟨hvariant, haddr, hsome, hargs⟩ := hp
  obtain ⟨count, hcount⟩ := channelCount_mem_iff.mp hvariant
  rw [hcount] at hargs
  obtain ⟨cs, hok, hcs, hvalid⟩ := constructContexts_of_valid hargs 0
  simp only [build, hcount, channelCountOf?_value, if_pos haddr, if_neg hsome, hok]
  exact ⟨_, rfl, toNat_ofInt_of_address haddr, hcount.symm, rfl, ⟨rfl, rfl⟩, rfl, hcs, hvalid⟩

theorem build_of_invalid {p : BuildParams} (hp : ¬BuildParamsValid p) : ∃ e : BuildError, build p = .error e := by
  unfold build
  cases hcount : channelCountOf? p.channelCount with
  | none => exact ⟨_, rfl⟩
  | some count =>
    have hvalue := channelCountOf?_eq_some.mp hcount
    by_cases haddr : 0 ≤ p.devAddress ∧ p.devAddress ≤ 127
    · by_cases hnil : p.contexts = []
      · exact ⟨_, by simp only [if_pos haddr, if_pos hnil]; rfl⟩
      · have hargs : ¬∀ a ∈ p.contexts, ContextArgsValid (channelCountValue count) a := fun h =>
          hp ⟨channelCount_mem_iff.mpr ⟨count, hvalue⟩, haddr, hnil, hvalue ▸ h⟩
        obtain ⟨e, herror⟩ := constructContexts_of_invalid hargs 0
        exact ⟨e, by simp only [if_pos haddr, if_neg hnil, herror]; rfl⟩
    · exact ⟨_, by simp only [if_neg haddr]; rfl⟩

theorem builtFrom_of_build_eq_ok {p : BuildParams} {s : State} (h : build p = .ok s) :
    BuildParamsValid p ∧ s.BuiltFrom p := by
  by_cases hp : BuildParamsValid p
  · obtain ⟨s', hok, hbuilt⟩ := build_of_valid hp
    cases hok.symm.trans h
    exact ⟨hp, hbuilt⟩
  · obtain ⟨e, herror⟩ := build_of_invalid hp
    cases herror.symm.trans h

theorem forall₂_getElem? {α β : Type} {R : α → β → Prop} {l : List α} {l' : List β} (hl : List.Forall₂ R l l')
    {i : Nat} {a : α} (ha : l[i]? = some a) : ∃ b, l'[i]? = some b ∧ R a b := by
  obtain ⟨hi, rfl⟩ := List.getElem?_eq_some_iff.mp ha
  have hi' : i < l'.length := hl.length_eq ▸ hi
  exact ⟨l'[i], List.getElem?_eq_getElem hi', hl.get hi hi'⟩

/-- Settles O11: valid parameters build the block of R240 and all others are refused. -/
theorem buildGivesResetValuesOrIsRefused : Obligations.BuildGivesResetValuesOrIsRefused := by
  refine ⟨fun p hp => ?_, fun p => build_of_invalid⟩
  obtain ⟨s, hok, hbuilt⟩ := build_of_valid hp
  obtain ⟨hfault, hrefused⟩ := hbuilt.running
  exact ⟨s, hok, hbuilt.address, hbuilt.channelCount, hbuilt.lastConfig, hfault, hrefused, hbuilt.txns,
    hbuilt.contexts.length_eq.symm, fun _ _ => forall₂_getElem? hbuilt.contexts⟩

/-- Settles O12: the checks of R241 in their order; a context that is not constructed has invalid arguments, and with
those the build is refused. -/
theorem contextConstruction : Obligations.ContextConstruction := by
  intro count a
  refine ⟨constructContext_of_invalid_index, constructContext_of_invalid_gain, constructContext_of_invalid_rate,
    fun hindex hgain hrate => ?valid, fun p e hcount ha he => build_of_invalid ?invalid⟩
  case valid =>
    obtain ⟨c, hok, hbuilt, -⟩ := constructContext_of_valid (contextArgsValid_iff.mpr ⟨hindex, hgain, hrate⟩)
    exact ⟨c, hok, hbuilt⟩
  case invalid =>
    rintro ⟨-, -, -, hargs⟩
    obtain ⟨c, hok, -⟩ := constructContext_of_valid (hcount ▸ hargs a ha)
    cases hok.symm.trans he

/-- A built block meets the invariant: the cache is unwritten and every context passed the checks of R241. -/
theorem State.BuiltFrom.inv {p : BuildParams} {s : State} (h : s.BuiltFrom p) (hsome : p.contexts ≠ []) : s.Inv where
  lastConfig := by
    rw [h.lastConfig]
    trivial
  channels := h.channels
  someContext hnil := hsome (List.forall₂_nil_right_iff.mp (hnil ▸ h.contexts))
  oneStop := .inl h.running.1

/-- Settles O13: a build that is not refused had valid parameters, at least one context among them. -/
theorem buildEstablishesInvariant : Obligations.BuildEstablishesInvariant := by
  intro p s h
  obtain ⟨⟨-, -, hsome, -⟩, hbuilt⟩ := builtFrom_of_build_eq_ok h
  exact ⟨hbuilt.inv hsome, hbuilt.running⟩

end Sys2Proof.Machine
end

section
/-! PROOFS of the two statements about a block that was issued nothing: its step, and the reset state as the build of
the model's parameters. -/

namespace Sys2Proof.Machine

theorem fetch_eq_none {s : State} (hc : s.commands = []) : fetch s = none := by
  simp [fetch, hc]

/-- Settles O6: the gate is open and there is nothing to fetch. -/
theorem idleStepChangesNothing : Obligations.IdleStepChangesNothing := by
  intro s hs hc
  rw [step, gate_of_running hs, fetch_eq_none hc]

/-- The construction of the model's parameters (notes/assumptions/1.md) computes the reset state. -/
theorem build_config_eq_reset : build Config.build = .ok State.reset := rfl

/-- Settles O14: the invariant and the open gate are those of every build that is not refused. -/
theorem resetIsBuiltAndMeetsInvariant : Obligations.ResetIsBuiltAndMeetsInvariant := by
  obtain ⟨hinv, hrunning⟩ := buildEstablishesInvariant Config.build State.reset build_config_eq_reset
  exact ⟨build_config_eq_reset, hrunning, hinv⟩

end Sys2Proof.Machine
end
